-- ==== Sys2Proof/Word.lean ====
section
/-! DEFINITION. The quantities of the hardware (spec/00_scope.md R7, R10): words, bytes, dwords. All unsigned. -/

namespace Sys2Proof

/-- A word: an unsigned integer in 0 .. 2^32 - 1 (R10). -/
abbrev Word := BitVec 32

/-- A byte: an unsigned integer in 0 .. 255 (R10). -/
abbrev Byte := BitVec 8

/-- A dword: an unsigned integer in 0 .. 2^64 - 1 (R10). -/
abbrev Dword := BitVec 64

/-- Eight words: the shape of the hash state (R7, R26). -/
abbrev Hash := Vector Word 8

/-- Sixty-four words: the shape of the message schedule and of the round constants (R7, R29, R30). -/
abbrev Words64 := Vector Word 64

end Sys2Proof
end

