-- ==== Sys2Proof/Config.lean ====
section
/-! DEFINITION. What is fixed for one instance: its parameters (spec/00_scope.md R8), the constants `IV` and `K` (R9),
and the free values the spec leaves open (spec/93_implementation_defined.md U1, U14). -/

namespace Sys2Proof

/-- The parameters of one instance (R8). They are no state of the hardware: no step changes them. `State` carries them
so that every statement holds for every instance (log 1). -/
structure Config where
  /-- `MSG_CAP`: capacity in bytes of the message memory, a multiple of 64, 64 <= MSG_CAP < 2^64. -/
  msgCap : Nat
  /-- `KROM_OK`: whether the round-constant table could be produced when the hardware was built. -/
  kromOk : Bool
  /-- `REG_BASE`: the platform's place for the register space, a multiple of 512; no rule uses it. -/
  regBase : Nat
  /-- `MSG_BASE`: the platform's place for the message memory; no rule uses it. -/
  msgBase : Nat
  deriving DecidableEq, Repr

/-- The instance that `State.reset` belongs to. `KROM_OK` = true is the spec's default (R8).
DESIGN CHOICE (log 1), unsafe: the spec leaves `MSG_CAP`, `REG_BASE` and `MSG_BASE` open; 128 is the capacity of most of
the spec's own vectors. -/
def Config.default : Config := { msgCap := 128, kromOk := true, regBase := 0, msgBase := 0 }

/-- The initial hash value `IV[0..7]` (spec/10_state.md R27). PRESUMED by the spec itself: "from general knowledge, not
in source" (log 12). -/
def Config.iv : Hash :=
  #v[0x6a09e667, 0xbb67ae85, 0x3c6ef372, 0xa54ff53a,
     0x510e527f, 0x9b05688c, 0x1f83d9ab, 0x5be0cd19]

/-- The rows t = 0 to 15 of R128: the prime `p_t` and the word `K[t]`. -/
def Config.romRows0 : List (Nat × Word) :=
  [(2, 0x428a2f98), (3, 0x71374491), (5, 0xb5c0fbcf), (7, 0xe9b5dba5),
   (11, 0x3956c25b), (13, 0x59f111f1), (17, 0x923f82a4), (19, 0xab1c5ed5),
   (23, 0xd807aa98), (29, 0x12835b01), (31, 0x243185be), (37, 0x550c7dc3),
   (41, 0x72be5d74), (43, 0x80deb1fe), (47, 0x9bdc06a7), (53, 0xc19bf174)]

/-- The rows t = 16 to 31 of R128: the prime `p_t` and the word `K[t]`. -/
def Config.romRows1 : List (Nat × Word) :=
  [(59, 0xe49b69c1), (61, 0xefbe4786), (67, 0x0fc19dc6), (71, 0x240ca1cc),
   (73, 0x2de92c6f), (79, 0x4a7484aa), (83, 0x5cb0a9dc), (89, 0x76f988da),
   (97, 0x983e5152), (101, 0xa831c66d), (103, 0xb00327c8), (107, 0xbf597fc7),
   (109, 0xc6e00bf3), (113, 0xd5a79147), (127, 0x06ca6351), (131, 0x14292967)]

/-- The rows t = 32 to 47 of R128: the prime `p_t` and the word `K[t]`. -/
def Config.romRows2 : List (Nat × Word) :=
  [(137, 0x27b70a85), (139, 0x2e1b2138), (149, 0x4d2c6dfc), (151, 0x53380d13),
   (157, 0x650a7354), (163, 0x766a0abb), (167, 0x81c2c92e), (173, 0x92722c85),
   (179, 0xa2bfe8a1), (181, 0xa81a664b), (191, 0xc24b8b70), (193, 0xc76c51a3),
   (197, 0xd192e819), (199, 0xd6990624), (211, 0xf40e3585), (223, 0x106aa070)]

/-- The rows t = 48 to 63 of R128: the prime `p_t` and the word `K[t]`. -/
def Config.romRows3 : List (Nat × Word) :=
  [(227, 0x19a4c116), (229, 0x1e376c08), (233, 0x2748774c), (239, 0x34b0bcb5),
   (241, 0x391c0cb3), (251, 0x4ed8aa4a), (257, 0x5b9cca4f), (263, 0x682e6ff3),
   (269, 0x748f82ee), (271, 0x78a5636f), (277, 0x84c87814), (281, 0x8cc70208),
   (283, 0x90befffa), (293, 0xa4506ceb), (307, 0xbef9a3f7), (311, 0xc67178f2)]

/-- The table of R128, row by row. -/
def Config.romRows : List (Nat × Word) := romRows0 ++ romRows1 ++ romRows2 ++ romRows3

/-- The contents of `round_constant_rom`, `K[0..63]`: the words of the table of R128. That they are what R127's cube-root rule
gives for the primes beside them is a statement about `Machine.kDerived`. -/
def Config.k : Words64 := ⟨⟨romRows.map Prod.snd⟩, rfl⟩

/-- The value that a byte of `MSG` nothing has written since reset reads as (spec/10_state.md R37, U1: "any value"): a free
value, one for each reading event (the counter) and each address (log 3). -/
opaque Config.freeByte : Nat → Nat → Byte

/-- The contents of the constant memory in a build with `KROM_OK` false: "not defined" (spec/40_round_constant_rom.md
R129, U14): a free value for each index (log 8). -/
opaque Config.brokenRom : Fin 64 → Word

end Sys2Proof
end

