-- ==== Sys2Proof/Syntax.lean ====
section
/-! DEFINITION. Syntax: the six commands (spec/30_encoding.md R101, one constructor per row of opcode_table.json), the
names of the registers (spec/10_state.md R45), and what a host can send the block (R109). -/

namespace Sys2Proof

/-- A command. A command word "has no register fields and no immediate" (R100): no constructor has an operand. -/
inductive Instr where
  /-- `NOP`, word 0 (R222). -/
  | nop
  /-- `INIT`, word 1 (R224). -/
  | init
  /-- `PAD`, word 2 (R226). -/
  | pad
  /-- `BLOCK`, word 3 (R225). -/
  | block
  /-- `DIGEST`, word 4 (R227). -/
  | digest
  /-- `CLEAR`, word 5 (R228). -/
  | clear
  deriving DecidableEq, Repr

/-- The registers of the map of R45, each under its own name. -/
inductive Reg where
  | ctrl | cmd | status
  | lenLo | lenHi | padlenLo | padlenHi
  /-- `H0 .. H7`. -/
  | hash (i : Fin 8)
  | blkLo | blkHi | capLo | capHi
  /-- `KROM0 .. KROM63`. -/
  | krom (t : Fin 64)
  deriving DecidableEq, Repr

/-- The two address spaces a host can reach (spec/20_memory.md R70). -/
inductive Space where
  | reg | msg
  deriving DecidableEq, Repr

/-- The direction of an access (R109). -/
inductive Dir where
  | read | write
  deriving DecidableEq, Repr

/-- A host access, the tuple `(space, dir, addr, size, data)` of R109. `addr` is an offset inside its space (R70), `size`
is in bytes, `data` is the value a write carries (0 in a read). -/
structure Access where
  space : Space
  dir : Dir
  addr : Nat
  size : Nat
  data : Nat
  deriving DecidableEq, Repr

/-- What a host access returns (R109, R215): OKAY for a write, OKAY with a word (REG read) or a byte (MSG read), ERROR. -/
inductive Response where
  | okay
  | okayWord (v : Word)
  | okayByte (v : Byte)
  | error
  deriving DecidableEq, Repr

/-- The events of one instance, whose total order R82 speaks of: a host access, one engine step, or a reset (R281). -/
inductive Event where
  | access (a : Access)
  | engine
  | reset
  deriving DecidableEq, Repr

end Sys2Proof
end

