-- ==== Sys2Proof/WellFormed.lean ====
section
/-! DEFINITION. What a well-formed parameter set and a well-formed host access are. A command has no operand (R100), so
every term of `Instr` is well-formed. -/

namespace Sys2Proof

/-- The ranges of R8: `MSG_CAP` is a multiple of 64 with 64 <= MSG_CAP < 2^64, `REG_BASE` a multiple of 512. -/
abbrev Config.wf (c : Config) : Prop :=
  c.msgCap % 64 = 0 ∧ 64 ≤ c.msgCap ∧ c.msgCap < 2 ^ 64 ∧ c.regBase % 512 = 0

/-- An access as R109 forms it: a write carries data that fits its size, a read carries none. -/
def Access.wf (a : Access) : Bool :=
  match a.dir with
  | .read => a.data == 0
  | .write => decide (a.data < 2 ^ (8 * a.size))

end Sys2Proof
end

