-- ==== Sys2Proof/Decode.lean ====
section
/-! DEFINITION. The command word, format `CMDW` (spec/30_encoding.md R100 to R102, R112): decoder, then encoder, then the
opcode table itself; and the decoding of register offsets (spec/10_state.md R45). -/

namespace Sys2Proof

/-- The field `OP`, bits 3:0 of a command word (R100). -/
def opField (w : Word) : BitVec 4 := w.extractLsb' 0 4

/-- The field `ZERO`, bits 31:4 of a command word (R100). -/
def zeroField (w : Word) : BitVec 28 := w.extractLsb' 4 28

/-- Why a word is no command (R102). -/
inductive DecodeError where
  /-- Some bit of `ZERO` is set. -/
  | zeroFieldSet
  /-- `OP` is in 0x6 .. 0xF. -/
  | reservedOpcode (op : BitVec 4)
  deriving DecidableEq, Repr

/-- The opcodes of R101. -/
def instrOfOp (op : BitVec 4) : Option Instr :=
  match op.toNat with
  | 0 => some .nop
  | 1 => some .init
  | 2 => some .pad
  | 3 => some .block
  | 4 => some .digest
  | 5 => some .clear
  | _ => none

/-- The decoder: total on every 32-bit word, each illegal word rejected by name (R102). A command word is a 32-bit value
with no byte order (R76, log 14). -/
def decode (w : Word) : Except DecodeError Instr :=
  if zeroField w ≠ 0 then .error .zeroFieldSet
  else
    match instrOfOp (opField w) with
    | some i => .ok i
    | none => .error (.reservedOpcode (opField w))

/-- The command's opcode (R101). -/
def opOf : Instr → BitVec 4
  | .nop => 0
  | .init => 1
  | .pad => 2
  | .block => 3
  | .digest => 4
  | .clear => 5

/-- The encoder: `ZERO` = 0 above `OP` (R100, R101). -/
def encode (i : Instr) : Word := (0 : BitVec 28) ++ opOf i

/-- One row of the opcode table (R112): a word stands for the command if `word AND mask = pattern`. -/
structure TableRow where
  mask : Word
  pattern : Word
  instr : Instr
  deriving DecidableEq, Repr

/-- opcode_table.json, row by row: the mask is 0xFFFFFFFF in each, "every bit of the word is decoded" (R112). -/
def opcodeTable : List TableRow :=
  [⟨0xFFFFFFFF, 0x00000000, .nop⟩, ⟨0xFFFFFFFF, 0x00000001, .init⟩, ⟨0xFFFFFFFF, 0x00000002, .pad⟩,
   ⟨0xFFFFFFFF, 0x00000003, .block⟩, ⟨0xFFFFFFFF, 0x00000004, .digest⟩, ⟨0xFFFFFFFF, 0x00000005, .clear⟩]

/-- The table's reading of a word: the first row that matches; "a decoder written from the table alone treats every word
that matches no row as illegal" (R112). -/
def tableLookup (w : Word) : Option Instr :=
  (opcodeTable.find? fun r => w &&& r.mask == r.pattern).map TableRow.instr

/-- The host's question: the instruction the decoder reads from the word whose bits are `w`, of which the table gives
`nbits`; the bits above `nbits` are 0. A command word has 32 bits, so a value that needs more is none. -/
def decodeTableWord (nbits w : Nat) : Option Instr :=
  if w % 2 ^ nbits < 2 ^ 32 then (decode (BitVec.ofNat 32 (w % 2 ^ nbits))).toOption else none

/-- The offset of each register in the register space (spec/10_state.md R45). -/
def Reg.offset : Reg → Nat
  | .ctrl => 0x000
  | .cmd => 0x004
  | .status => 0x008
  | .lenLo => 0x010
  | .lenHi => 0x014
  | .padlenLo => 0x018
  | .padlenHi => 0x01C
  | .hash i => 0x020 + 4 * i.val
  | .blkLo => 0x040
  | .blkHi => 0x044
  | .capLo => 0x048
  | .capHi => 0x04C
  | .krom t => 0x100 + 4 * t.val

/-- The register at a word offset `off / 4` (R45); none at a reserved offset (R56) or past 0x1FC. -/
def Reg.ofWordIndex (n : Nat) : Option Reg :=
  match n with
  | 0 => some .ctrl
  | 1 => some .cmd
  | 2 => some .status
  | 4 => some .lenLo
  | 5 => some .lenHi
  | 6 => some .padlenLo
  | 7 => some .padlenHi
  | 16 => some .blkLo
  | 17 => some .blkHi
  | 18 => some .capLo
  | 19 => some .capHi
  | n =>
    if h : 8 ≤ n ∧ n < 16 then some (.hash ⟨n - 8, by omega⟩)
    else if h : 64 ≤ n ∧ n < 128 then some (.krom ⟨n - 64, by omega⟩)
    else none

/-- The register at a byte offset (R45): none at a misaligned, reserved or out-of-range offset. -/
def Reg.ofOffset (off : Nat) : Option Reg :=
  if off % 4 = 0 then Reg.ofWordIndex (off / 4) else none

end Sys2Proof
end

