-- ==== Sys2Proof/Machine/State.lean ====
section
/-! DEFINITION. The state of one `sha256_core` instance (spec/10_state.md R25), its reset (R59), and the ways a step of
the model can stop. -/

namespace Sys2Proof.Machine

/-- `PHASE`, the sequencer's analogue of a program counter (R40). -/
inductive Phase where
  | idle | pad | sched | winit | round | add
  deriving DecidableEq, Repr

/-- `OPK`, the command the engine is running (R43). -/
inductive Opk where
  | pad | block | digest
  deriving DecidableEq, Repr

/-- `ERR`, the 2-bit error field; all four values are defined (R39). -/
inductive Err where
  /-- 0, NONE. -/
  | none
  /-- 1, CONST: ConstantDerivationError (R251). -/
  | const
  /-- 2, ALLOC: AllocationFailure (R252). -/
  | alloc
  /-- 3, EMPTY: MalformedInput (R253). -/
  | empty
  deriving DecidableEq, Repr

/-- The working variables `a, b, c, d, e, f, g, h` (R28). -/
structure Vars where
  a : Word
  b : Word
  c : Word
  d : Word
  e : Word
  f : Word
  g : Word
  h : Word
  deriving DecidableEq, Repr

/-- The message memory `MSG` (R36): the bytes written since reset, at strictly rising addresses. An address that is not
listed was never written and holds no value of its own (R37, log 3). -/
abbrev Memory := List Host.Cell

/-- The canonical form of a memory: strictly rising addresses. No listed byte can equal what an unlisted address reads
as, because an unlisted address has no value. -/
abbrev Memory.wf (m : Memory) : Prop := m.Pairwise fun c d => c.1 < d.1

/-- The complete state (R25), with the instance's parameters and three fields of the model's own. -/
structure State where
  /-- The parameters of the instance (spec/00_scope.md R8); no step changes them (log 1). -/
  cfg : Config
  /-- `H[0..7]`, the hash state (R26). -/
  h : Hash
  /-- `a..h`, the working variables (R28). -/
  vars : Vars
  /-- `W[0..63]`, the message schedule (R29). -/
  w : Words64
  /-- `MSG`, the message memory (R36). -/
  msg : Memory
  /-- `CTRL.ALLOW_EMPTY` (R46). -/
  allowEmpty : Bool
  /-- `LEN` (R50). -/
  len : Dword
  /-- `PADLEN` (R51). -/
  padlen : Dword
  /-- `BLK` (R53). -/
  blk : Dword
  /-- `VALID` (R38). -/
  valid : Bool
  /-- `ERR` (R39). -/
  err : Err
  /-- `PHASE` (R40). -/
  phase : Phase
  /-- `OPK` (R43). -/
  opk : Opk
  /-- `t`, 0..63 (R41). -/
  t : Fin 64
  /-- `p` (R42). -/
  p : Dword
  /-- The model's own: what happens next, in order (spec/20_memory.md R82, log 4). -/
  events : List Event
  /-- The model's own: the response of the last host access (spec/45_host_commands.md R215, log 5). -/
  resp : Option Response
  /-- The model's own: how many events have read `MSG`; it indexes the free values (log 3). -/
  freeCount : Nat
  deriving DecidableEq, Repr

/-- How a step can stop. Neither reason is the hardware's: "no engine step raises an error" (spec/44_digest_driver.md
R198). Each marks an engine step outside the domain its rule defines, in a state the invariant of R60 excludes (log 7). -/
inductive Fault where
  /-- Raised by a PADBYTE or SCHED step whose `MSG` address is not below `MSG_CAP`: MemRead and MemWrite "are defined only
  for a + n <= MSG_CAP" (spec/00_scope.md R20). Safe: no state that a run reaches has it. -/
  | msgAddress
  /-- Raised by a PADBYTE step with `p` outside `LEN <= p < padlen(LEN)`, where `padbyte` is not defined
  (spec/41_padding_engine.md R139), or for a `BLOCK` command, which has no such step (R198). Safe: no state that a run
  reaches has it. -/
  | padDomain
  deriving DecidableEq, Repr

/-- How a step can be refused: never, once every instruction has its meaning. -/
inductive Refusal where
  /-- Raised by an arm of `exec` whose instruction has no meaning yet; no arm is in that case. Safe. -/
  | notModelled (mnemonic : String)
  deriving DecidableEq, Repr

/-- The state after a reset of the instance `cfg` (R59, R280). `H`, `PHASE`, `VALID`, `ERR`, `CTRL`, `LEN`, `PADLEN`, `BLK`
are the spec's; MSG has nothing written. DESIGN CHOICE (log 2), unsafe: `a..h`, `W`, `t`, `p` are 0 and `OPK` is PAD, where
the spec says "unspecified". DESIGN CHOICE (log 17): the model's own fields are empty. -/
def State.resetOf (cfg : Config) : State :=
  { cfg := cfg
    h := Config.iv
    vars := ⟨0, 0, 0, 0, 0, 0, 0, 0⟩
    w := Vector.replicate 64 0
    msg := []
    allowEmpty := false
    len := 0
    padlen := 0
    blk := 0
    valid := false
    err := if cfg.kromOk then .none else .const
    phase := .idle
    opk := .pad
    t := 0
    p := 0
    events := []
    resp := none
    freeCount := 0 }

/-- The machine right after reset, of the instance `Config.default` (R59, R280, log 1). -/
def State.reset : State := State.resetOf Config.default

end Sys2Proof.Machine
end

