-- ==== Sys2Proof/Machine/Flags.lean ====
section
/-! DEFINITION. The flags: `BUSY`, `VALID`, `ERR` and the word `STATUS` made of them (spec/10_state.md R38 to R40, R48).
There are no arithmetic condition codes (R39). -/

namespace Sys2Proof.Machine

/-- `PHASE` = IDLE. -/
def State.idle (s : State) : Bool := s.phase == .idle

/-- `BUSY`: 1 if `PHASE` is not IDLE, else 0 (R40). -/
def State.busy (s : State) : Bool := s.phase != .idle

/-- The code of an error in the field `ERR` (R39). -/
def Err.code : Err → BitVec 2
  | .none => 0
  | .const => 1
  | .alloc => 2
  | .empty => 3

/-- The word a read of `STATUS` returns, bit by bit: bit 0 BUSY, bit 1 VALID, bits 3:2 zero, bits 5:4 ERR, bits 31:6 zero
(R48). -/
def State.statusWord (s : State) : Word :=
  (0 : BitVec 26) ++ s.err.code ++ (0 : BitVec 2) ++ BitVec.ofBool s.valid ++ BitVec.ofBool s.busy

/-- Whether a command other than `NOP` and `CLEAR` may be accepted: not busy and no error latched (spec/45 R223, R258). -/
def State.ready (s : State) : Bool := s.idle && s.err == .none

end Sys2Proof.Machine
end

