-- ==== Sys2Proof/Machine/Ops.lean ====
section
/-! DEFINITION. The shared operations: the message memory (spec/00_scope.md R20), responses (spec/45 R220), the command
procedure's frame (R223), error entry and return (spec/60_exceptions.md R256, R259), reset (spec/70 R280). -/

namespace Sys2Proof.Machine

/-- The byte written at `a`, none if nothing wrote it since reset. -/
def Memory.read (m : Memory) (a : Nat) : Option Byte :=
  match m with
  | [] => none
  | c :: m => if c.1 = a then some c.2 else Memory.read m a

/-- The memory with the byte at `a` written; the canonical form is kept. -/
def Memory.write (m : Memory) (a : Nat) (v : Byte) : Memory :=
  match m with
  | [] => [(a, v)]
  | c :: m =>
    if a < c.1 then (a, v) :: c :: m
    else if a = c.1 then (a, v) :: m
    else c :: Memory.write m a v

/-- `MSG[a]`: the byte last written, or a free value where nothing has been written since reset (spec/10_state.md R37,
log 3). -/
def State.msgByte (s : State) (a : Nat) : Byte :=
  match s.msg.read a with
  | some v => v
  | none => Config.freeByte s.freeCount a

/-- `MSG[a] <- v`. -/
def State.writeMsg (s : State) (a : Nat) (v : Byte) : State := { s with msg := s.msg.write a v }

/-- One more event has read `MSG`: the next one meets free values of its own ("not necessarily the same on a second
read", U1, log 3). -/
def State.countRead (s : State) : State := { s with freeCount := s.freeCount + 1 }

/-- The port returns a response (R215). -/
def State.respond (s : State) (r : Response) : State := { s with resp := some r }

/-- `reject`: "the access returns ERROR ... and no state of the block changes" (R220). -/
def State.reject (s : State) : State := s.respond .error

/-- `raise`: the error entry of R256. `ERR` takes the code, `VALID` <- 0, `PHASE` stays as it is; nothing is saved and
nothing is vectored. -/
def State.raise (s : State) (e : Err) : State := { s with err := e, valid := false }

/-- The return from the error state: "`CLEAR` restores nothing, because entry saved nothing; it sets `ERR` <- 0 and
`VALID` <- 0" (R259, R228). -/
def State.clearError (s : State) : State := { s with err := .none, valid := false }

/-- The frame of the command procedure (R223): a command that may be accepted has its effect and answers OKAY, also when
it raises one of the errors; else it is rejected. -/
def State.command (s : State) (accepted : Bool) (effect : State → State) :
    Host.Outcome State Fault Refusal :=
  if accepted then .next ((effect s).respond .okay) else .next s.reject

/-- A reset at any time (R280, R281): every piece of state as after reset, the instance the same (R282). The events still
to come, the last response and the counter of the free values are the model's own and stay (log 17). -/
def State.resetEvent (s : State) : State :=
  { State.resetOf s.cfg with events := s.events, resp := s.resp, freeCount := s.freeCount }

end Sys2Proof.Machine
end

