-- ==== Sys2Proof/Machine/Prim.lean ====
section
/-! DEFINITION. The pseudocode primitives (spec/00_scope.md R13 to R18). -/

namespace Sys2Proof.Machine

/-- `add32`: addition mod 2^32; "overflow is expected and required behavior, not an error" (R13). -/
def add32 (x y : Word) : Word := x + y

/-- `rotr`: the circular right rotation of R14, for 1 <= n <= 31; other counts are never evaluated (U17). -/
def rotr (x : Word) (n : Nat) : Word := (x >>> n) ||| (x <<< (32 - n))

/-- `shr`: the logical right shift of R15. -/
def shr (x : Word) (n : Nat) : Word := x >>> n

/-- `be32`: the big-endian word of four bytes, the first most significant (R17). -/
def be32 (b0 b1 b2 b3 : Byte) : Word := b0 ++ b1 ++ b2 ++ b3

/-- `bytes_be32`: the four bytes of a word, the most significant first (R17). -/
def bytesBe32 (w : Word) : List Byte :=
  [w.extractLsb' 24 8, w.extractLsb' 16 8, w.extractLsb' 8 8, w.extractLsb' 0 8]

/-- `bytes_be64`: the eight bytes of a dword, the most significant first (R18). -/
def bytesBe64 (d : Dword) : List Byte :=
  [d.extractLsb' 56 8, d.extractLsb' 48 8, d.extractLsb' 40 8, d.extractLsb' 32 8,
   d.extractLsb' 24 8, d.extractLsb' 16 8, d.extractLsb' 8 8, d.extractLsb' 0 8]

/-- `be64`: the dword of eight bytes, the first most significant (R18). -/
def be64 (b0 b1 b2 b3 b4 b5 b6 b7 : Byte) : Dword := b0 ++ b1 ++ b2 ++ b3 ++ b4 ++ b5 ++ b6 ++ b7

/-- The low half of a 64-bit register, bits 31:0 (spec/10_state.md R57). -/
def lowHalf (d : Dword) : Word := d.extractLsb' 0 32

/-- The high half of a 64-bit register, bits 63:32 (R57). -/
def highHalf (d : Dword) : Word := d.extractLsb' 32 32

/-- A 64-bit register with its low half replaced: "a write to one half replaces that half and leaves the other" (R50). -/
def setLowHalf (d : Dword) (v : Word) : Dword := highHalf d ++ v

/-- A 64-bit register with its high half replaced (R50). -/
def setHighHalf (d : Dword) (v : Word) : Dword := v ++ lowHalf d

end Sys2Proof.Machine
end

