-- ==== Sys2Proof/Machine/Rom.lean ====
section
/-! DEFINITION. round_constant_rom (spec/40_round_constant_rom.md): its read port and the rule its contents come from. -/

namespace Sys2Proof.Machine

/-- The first 64 primes in ascending order, `p_0 = 2` to `p_63 = 311` (R126): the column `p_t` of the table of R128. -/
def romPrimes : List Nat := Config.romRows.map Prod.fst

/-- Whether no number from 2 to `n` divides `p`. -/
def noDivisorUpTo (p : Nat) : Nat → Bool
  | 0 => true
  | n + 1 => (n + 1 < 2 || p % (n + 1) ≠ 0) && noDivisorUpTo p n

/-- Trial division, for the sieve of R126: `p >= 2` and no number from 2 to `p - 1` divides it. -/
def isPrimeByTrial (p : Nat) : Bool := 2 ≤ p && noDivisorUpTo p (p - 1)

/-- One bit of the integer cube root: keep bit `k` of the root if the cube still fits under `n`. -/
def icbrtBits (n : Nat) : Nat → Nat → Nat
  | 0, m => m
  | k + 1, m => icbrtBits n k (if (m + 2 ^ k) ^ 3 ≤ n then m + 2 ^ k else m)

/-- `icbrt(n)` of R127: the largest `m` with `m^3 <= n`, for `n < 2^120` (the rule needs `n <= 311 * 2^96 < 2^105`). -/
def icbrt (n : Nat) : Nat := icbrtBits n 40 0

/-- The exact integer form of R127's rule for the prime `p`: `icbrt(p * 2^96) mod 2^32`. -/
def kDerived (p : Nat) : Word := BitVec.ofNat 32 (icbrt (p * 2 ^ 96))

/-- The read port (R125): index `t` in, `K[t]` out. With `KROM_OK` false the contents are not defined (R129) and a free
value stands for them; no rule reads them then (log 8). -/
def romRead (cfg : Config) (t : Fin 64) : Word :=
  if cfg.kromOk then Config.k[t] else Config.brokenRom t

end Sys2Proof.Machine
end

