-- ==== Sys2Proof/Machine/Operands.lean ====
section
/-! DEFINITION. Where a command's and a host's operands live: the registers, read and written by name (spec/10_state.md
R45 to R57, spec/45_host_commands.md R216, R217), and the block that `BLK` names (R53). -/

namespace Sys2Proof.Machine

/-- `H[i]` as the host reads it: gated to 0 while `ERR` is not 0 (R52). -/
def State.hashGated (s : State) (i : Fin 8) : Word := if s.err = .none then s.h[i] else 0

/-- What a read of each register returns (R216); none where the read is rejected: `CMD`, and `KROM` in a build without the
table (R55). -/
def State.readReg (s : State) (r : Reg) : Option Word :=
  match r with
  | .ctrl => some ((BitVec.ofBool s.allowEmpty).setWidth 32)
  | .cmd => none
  | .status => some s.statusWord
  | .lenLo => some (lowHalf s.len)
  | .lenHi => some (highHalf s.len)
  | .padlenLo => some (lowHalf s.padlen)
  | .padlenHi => some (highHalf s.padlen)
  | .hash i => some (s.hashGated i)
  | .blkLo => some (lowHalf s.blk)
  | .blkHi => some (highHalf s.blk)
  | .capLo => some (lowHalf (BitVec.ofNat 64 s.cfg.msgCap))
  | .capHi => some (highHalf (BitVec.ofNat 64 s.cfg.msgCap))
  | .krom t => if s.cfg.kromOk then some (romRead s.cfg t) else none

/-- What a write of `v` to each plain register leaves (R217); none where the write is rejected (read-only registers), and
for `CMD`, whose write runs the command procedure instead. -/
def State.writeReg (s : State) (r : Reg) (v : Word) : Option State :=
  match r with
  | .ctrl => some { s with allowEmpty := v.getLsbD 0 }
  | .lenLo => some { s with len := setLowHalf s.len v }
  | .lenHi => some { s with len := setHighHalf s.len v }
  | .blkLo => some { s with blk := setLowHalf s.blk v }
  | .blkHi => some { s with blk := setHighHalf s.blk v }
  | .cmd => none
  | .status => none
  | .padlenLo => none
  | .padlenHi => none
  | .hash _ => none
  | .capLo => none
  | .capHi => none
  | .krom _ => none

/-- Whether the block that `BLK` names lies inside `MSG`: `64 * BLK + 64 <= MSG_CAP`, on natural numbers (R53, R223). -/
def State.blockInMsg (s : State) : Bool := 64 * s.blk.toNat + 64 ≤ s.cfg.msgCap

end Sys2Proof.Machine
end

