-- ==== Sys2Proof/Machine/Padding.lean ====
section
/-! DEFINITION. sha256_padding_engine (spec/41_padding_engine.md): the functions, then the PADBYTE step. -/

namespace Sys2Proof.Machine

/-- `bitlen(L) = (8 * L) mod 2^64` (R137). -/
def bitLength (L : Nat) : Dword := BitVec.ofNat 64 (8 * L)

/-- `z(L) = (55 - L) mod 64`, the non-negative remainder (R138). -/
def zeroCount (L : Nat) : Nat := ((55 - (L : Int)) % 64).toNat

/-- `padlen(L) = L + 1 + z(L) + 8`, a natural number that does not wrap (R138). -/
def padLength (L : Nat) : Nat := L + 1 + zeroCount L + 8

/-- `padbyte(L, q)`, the byte at address `q` of the padding, for `L <= q < padlen(L)` (R139). -/
def padByte (L q : Nat) : Byte :=
  if q = L then 0x80
  else if q < padLength L - 8 then 0x00
  else (bitLength L >>> (8 * (padLength L - 1 - q))).setWidth 8

/-- `pad(B)` (R140). -/
def padMessage (B : List Byte) : List Byte :=
  B ++ [0x80] ++ List.replicate (zeroCount B.length) 0x00 ++ bytesBe64 (bitLength B.length)

/-- What follows the last padding byte (R141): the end of a `PAD`, the first block of a `DIGEST`. -/
def State.padDone (s : State) : State :=
  match s.opk with
  | .pad => { s with phase := .idle }
  | .block => { s with t := 0, phase := .sched }
  | .digest => { s with t := 0, phase := .sched }

/-- PADBYTE (R141): write the byte at `p`, then move on or finish. Outside the domain of `padbyte`, for a `BLOCK`, or
outside `MSG` it faults; the invariant of R60 excludes all three (log 7). -/
def padByteStep (s : State) : Host.Outcome State Fault Refusal :=
  if ¬ (s.len.toNat ≤ s.p.toNat ∧ s.p.toNat < padLength s.len.toNat) ∨ s.opk = .block then
    .fault .padDomain
  else if s.cfg.msgCap ≤ s.p.toNat then .fault .msgAddress
  else if s.p.toNat + 1 < s.padlen.toNat then
    .next { s.writeMsg s.p.toNat (padByte s.len.toNat s.p.toNat) with p := s.p + 1 }
  else .next (s.writeMsg s.p.toNat (padByte s.len.toNat s.p.toNat)).padDone

end Sys2Proof.Machine
end

