-- ==== Sys2Proof/Machine/Commands.lean ====
section
/-! DEFINITION. The six commands (spec/45_host_commands.md R222 to R228), each with the checks the command procedure makes
before it (R223). The busy check of R103 stands here too, so that each meaning is right in every state (log 15). -/

namespace Sys2Proof.Machine

/-- `NOP` (R222): no effect; accepted whatever `ERR` is. -/
def execNop (s : State) : Host.Outcome State Fault Refusal := s.command s.idle fun s => s

/-- `INIT` (R224): `VALID` <- 0, `H` <- IV. -/
def execInit (s : State) : Host.Outcome State Fault Refusal :=
  s.command s.ready fun s => { s with valid := false, h := Config.iv }

/-- The acceptance of `PAD` and `DIGEST` clears `VALID` and `PADLEN` before any check (R226, R227). -/
def State.clearResult (s : State) : State := { s with valid := false, padlen := 0 }

/-- `LEN` = 0 while `ALLOW_EMPTY` = 0: the cause of MalformedInput (spec/60_exceptions.md R253). -/
def State.emptyRefused (s : State) : Bool := s.len == 0 && !s.allowEmpty

/-- `padlen(LEN) > MSG_CAP`, compared on natural numbers: the cause of AllocationFailure (R252). -/
def State.doesNotFit (s : State) : Bool := s.cfg.msgCap < padLength s.len.toNat

/-- The sequencer set to padding for the command `k`: `PADLEN <- padlen(LEN)`, `p <- LEN`, `OPK <- k`, `PHASE <- PAD`
(R226, R227). `padlen(LEN)` fits in 64 bits, as it is at most `MSG_CAP` (log 10). -/
def State.startPad (s : State) (k : Opk) : State :=
  { s with padlen := BitVec.ofNat 64 (padLength s.len.toNat), p := s.len, opk := k, phase := .pad }

/-- The effect of `PAD` at acceptance (R226). -/
def State.padCommand (s : State) : State :=
  if s.emptyRefused then s.clearResult.raise .empty
  else if s.doesNotFit then s.clearResult.raise .alloc
  else s.clearResult.startPad .pad

/-- `PAD` (R226): accepted when no error is latched. -/
def execPad (s : State) : Host.Outcome State Fault Refusal := s.command s.ready State.padCommand

/-- The effect of `BLOCK` at acceptance (R225). -/
def State.blockCommand (s : State) : State :=
  if s.cfg.kromOk then { s with valid := false, t := 0, opk := .block, phase := .sched }
  else { s with valid := false }.raise .const

/-- `BLOCK` (R225): accepted when no error is latched and the block lies inside `MSG` (R223). -/
def execBlock (s : State) : Host.Outcome State Fault Refusal :=
  s.command (s.ready && s.blockInMsg) State.blockCommand

/-- The effect of `DIGEST` at acceptance (R227): the errors in the order of R260, then `H <- IV`, `BLK <- 0` and the
padding. -/
def State.digestCommand (s : State) : State :=
  if !s.cfg.kromOk then s.clearResult.raise .const
  else if s.emptyRefused then s.clearResult.raise .empty
  else if s.doesNotFit then s.clearResult.raise .alloc
  else { s.clearResult with h := Config.iv, blk := 0 }.startPad .digest

/-- `DIGEST` (R227): accepted when no error is latched. -/
def execDigest (s : State) : Host.Outcome State Fault Refusal := s.command s.ready State.digestCommand

/-- `CLEAR` (R228): accepted whatever `ERR` is; the return from the error state (R259). -/
def execClear (s : State) : Host.Outcome State Fault Refusal := s.command s.idle State.clearError

end Sys2Proof.Machine
end

