-- ==== Sys2Proof/Machine/Dispatch.lean ====
section
/-! DEFINITION. What each command does: one arm per constructor of `Instr`. -/

namespace Sys2Proof.Machine

/-- The command procedure of spec/45_host_commands.md R223 after the word has been decoded. -/
def exec (i : Instr) (s : State) : Host.Outcome State Fault Refusal :=
  match i with
  | .nop => Sys2Proof.Machine.execNop s
  | .init => Sys2Proof.Machine.execInit s
  | .pad => Sys2Proof.Machine.execPad s
  | .block => Sys2Proof.Machine.execBlock s
  | .digest => Sys2Proof.Machine.execDigest s
  | .clear => Sys2Proof.Machine.execClear s

end Sys2Proof.Machine
end

