-- ==== Sys2Proof/Machine/Compressor.lean ====
section
/-! DEFINITION. The compressor (spec/43_compressor.md): the round's functions, the steps WINIT, ROUND, ADD, and the
function `compress`. -/

namespace Sys2Proof.Machine

/-- The exclusive or of three rotations of `x`, with no shift: the form of R172 and R174. -/
def xorOfRotations (x : Word) (i j k : Nat) : Word := rotr x i ^^^ rotr x j ^^^ rotr x k

/-- `Sigma1` (R172). -/
def bigSigma1 (x : Word) : Word := xorOfRotations x 6 11 25

/-- `ch` (R173). -/
def ch (x y z : Word) : Word := (x &&& y) ^^^ (~~~x &&& z)

/-- `Sigma0` (R174). -/
def bigSigma0 (x : Word) : Word := xorOfRotations x 2 13 22

/-- `maj` (R175). -/
def maj (x y z : Word) : Word := (x &&& y) ^^^ (x &&& z) ^^^ (y &&& z)

/-- `t1` of R177. -/
def roundT1 (v : Vars) (k w : Word) : Word :=
  add32 (add32 (add32 (add32 v.h (bigSigma1 v.e)) (ch v.e v.f v.g)) k) w

/-- `t2` of R177. -/
def roundT2 (v : Vars) : Word := add32 (bigSigma0 v.a) (maj v.a v.b v.c)

/-- `round(v, k, w)` (R177): every right-hand side uses the values from before the round. -/
def roundFn (v : Vars) (k w : Word) : Vars :=
  { a := add32 (roundT1 v k w) (roundT2 v)
    b := v.a
    c := v.b
    d := v.c
    e := add32 v.d (roundT1 v k w)
    f := v.e
    g := v.f
    h := v.g }

/-- The working variables "initialized from the current state" (R170). -/
def Vars.ofHash (h : Hash) : Vars := ⟨h[0], h[1], h[2], h[3], h[4], h[5], h[6], h[7]⟩

/-- The add-back: `H[i] + (a..h)[i]`, each mod 2^32 (R178). -/
def addBack (h : Hash) (v : Vars) : Hash :=
  #v[add32 h[0] v.a, add32 h[1] v.b, add32 h[2] v.c, add32 h[3] v.d,
     add32 h[4] v.e, add32 h[5] v.f, add32 h[6] v.g, add32 h[7] v.h]

/-- `compress(S, Wd)` (R179): 64 rounds from `S` with `K[t]` and `Wd[t]`, then the add-back. -/
def compress (S : Hash) (Wd : Words64) : Hash :=
  addBack S ((List.finRange 64).foldl (fun v t => roundFn v Config.k[t] Wd[t]) (Vars.ofHash S))

/-- WINIT (R170). -/
def winitStep (s : State) : Host.Outcome State Fault Refusal :=
  .next { s with vars := Vars.ofHash s.h, t := 0, phase := .round }

/-- ROUND (R176): round `t` consumes `K[t]` and `W[t]`. -/
def roundStep (s : State) : Host.Outcome State Fault Refusal :=
  if s.t.val < 63 then .next { s with vars := roundFn s.vars (romRead s.cfg s.t) s.w[s.t], t := s.t + 1 }
  else .next { s with vars := roundFn s.vars (romRead s.cfg s.t) s.w[s.t], phase := .add }

/-- Whether a block of a `DIGEST` remains after `BLK` has been incremented to `b`: `64 * b < PADLEN` (R178). -/
def State.blocksRemain (s : State) (b : Dword) : Bool :=
  s.opk == .digest && decide (64 * b.toNat < s.padlen.toNat)

/-- ADD (R178): the add-back, the next block number, and what follows: another block, or the end of the command, which for
a `DIGEST` sets `VALID`. -/
def addStep (s : State) : Host.Outcome State Fault Refusal :=
  if s.blocksRemain (s.blk + 1) then
    .next { s with h := addBack s.h s.vars, blk := s.blk + 1, t := 0, phase := .sched }
  else
    .next { s with
      h := addBack s.h s.vars, blk := s.blk + 1, phase := .idle,
      valid := s.valid || s.opk == .digest }

end Sys2Proof.Machine
end

