-- ==== Sys2Proof/Machine/Schedule.lean ====
section
/-! DEFINITION. sha256_message_schedule (spec/42_message_schedule.md): the functions, then the SCHED step. -/

namespace Sys2Proof.Machine

/-- `sigma0` (R159): two rotations and a logical shift. -/
def sigma0 (x : Word) : Word := rotr x 7 ^^^ rotr x 18 ^^^ shr x 3

/-- `sigma1` (R160): two rotations and a logical shift. -/
def sigma1 (x : Word) : Word := rotr x 17 ^^^ rotr x 19 ^^^ shr x 10

/-- The recurrence of R156 for `W[t]`, `t >= 16`, from the words before it. (For `t < 16` nothing evaluates it.) -/
def expandWord (W : Words64) (t : Fin 64) : Word :=
  add32 (add32 (add32 (sigma1 W[t.val - 2]) W[t.val - 7]) (sigma0 W[t.val - 15])) W[t.val - 16]

/-- The word packed from the bytes `4t .. 4t+3` of a block (R156, R105). -/
def blockWord (B : Vector Byte 64) (t : Fin 64) (ht : t.val < 16) : Word :=
  be32 B[4 * t.val] B[4 * t.val + 1] B[4 * t.val + 2] B[4 * t.val + 3]

/-- `W` with the word `t` of the schedule of `B` put in, from the words before it (R156). -/
def scheduleWord (B : Vector Byte 64) (W : Words64) (t : Fin 64) : Words64 :=
  if ht : t.val < 16 then W.set t (blockWord B t ht) else W.set t (expandWord W t)

/-- `schedule(B)` (R156): the words in ascending order, each from the ones before it; the zeros it starts from are never
read. -/
def schedule (B : Vector Byte 64) : Words64 :=
  (List.finRange 64).foldl (scheduleWord B) (Vector.replicate 64 0)

/-- The address `64 * BLK + 4 * t` of the load form (R157). -/
def State.loadAddress (s : State) : Nat := 64 * s.blk.toNat + 4 * s.t.val

/-- The word the load form reads: `be32(MemRead(A, 4))`, `MSG[A]` in bits 31:24 (R157, spec/20_memory.md R73). -/
def State.loadWord (s : State) : Word :=
  be32 (s.msgByte s.loadAddress) (s.msgByte (s.loadAddress + 1))
    (s.msgByte (s.loadAddress + 2)) (s.msgByte (s.loadAddress + 3))

/-- SCHED, load form (R157), for `t <= 15`. Outside `MSG` it faults; the invariant of R60 excludes that (log 7). -/
def schedLoadStep (s : State) : Host.Outcome State Fault Refusal :=
  if s.cfg.msgCap < s.loadAddress + 4 then .fault .msgAddress
  else .next { s.countRead with w := s.w.set s.t s.loadWord, t := s.t + 1 }

/-- SCHED, expand form (R158), for `t >= 16`. -/
def schedExpandStep (s : State) : Host.Outcome State Fault Refusal :=
  if s.t.val < 63 then .next { s with w := s.w.set s.t (expandWord s.w s.t), t := s.t + 1 }
  else .next { s with w := s.w.set s.t (expandWord s.w s.t), phase := .winit }

/-- SCHED: the form that the index selects (R157, R158). -/
def schedStep (s : State) : Host.Outcome State Fault Refusal :=
  if s.t.val ≤ 15 then schedLoadStep s else schedExpandStep s

end Sys2Proof.Machine
end

