-- ==== Sys2Proof/Machine/Driver.lean ====
section
/-! DEFINITION. The digest driver (spec/44_digest_driver.md): the engine as one transition (R198), and the functions
`hashblocks`, `digest`, `toHex` that the hardware's result is stated by. -/

namespace Sys2Proof.Machine

/-- One engine step, the one `PHASE` selects (R40, R198); in IDLE the engine takes no step (spec/60_exceptions.md R267). -/
def engineStep (s : State) : Host.Outcome State Fault Refusal :=
  match s.phase with
  | .idle => .next s
  | .pad => padByteStep s
  | .sched => schedStep s
  | .winit => winitStep s
  | .round => roundStep s
  | .add => addStep s

/-- `n` engine steps in a row, with no host access between them. -/
def engineSteps (n : Nat) (s : State) : Host.Outcome State Fault Refusal :=
  match n with
  | 0 => .next s
  | n + 1 =>
    match engineStep s with
    | .next s' => engineSteps n s'
    | .fault f => .fault f
    | .refused r => .refused r

/-- Block `b` of a byte sequence, `Q[64b .. 64b+63]` (spec/00_scope.md R23); zeros where `Q` is shorter, which no rule
reads. -/
def blockOf (Q : List Byte) (b : Nat) : Vector Byte 64 := Vector.ofFn fun i => Q.getD (64 * b + i.val) 0

/-- `S_n` of R196: the state after the first `n` blocks of `Q`. -/
def hashFirst (S : Hash) (Q : List Byte) (n : Nat) : Hash :=
  match n with
  | 0 => S
  | b + 1 => compress (hashFirst S Q b) (schedule (blockOf Q b))

/-- `hashblocks(S, Q)` (R196), for a `Q` whose length is a multiple of 64. -/
def hashBlocks (S : Hash) (Q : List Byte) : Hash := hashFirst S Q (Q.length / 64)

/-- `digest(B) = hashblocks(IV, pad(B))` (R197). -/
def digest (B : List Byte) : Hash := hashBlocks Config.iv (padMessage B)

/-- The lower-case hexadecimal digit of a number below 16 (R205). -/
def hexDigit (n : Nat) : Char := Nat.digitChar n

/-- The eight digits of a word, the most significant first, leading zeros kept: digit `j` is that of bits
`31-4j : 28-4j` (R205). -/
def hexWord (w : Word) : List Char := (List.range 8).map fun j => hexDigit (w.extractLsb' (28 - 4 * j) 4).toNat

/-- `toHex(S)` (R205): `S[0]` first, nothing between. The hardware has no formatter; the host applies it. -/
def toHex (S : Hash) : String := String.ofList (S.toList.flatMap hexWord)

/-- The 32-byte form of a digest (spec/20_memory.md R75). -/
def digestBytes (S : Hash) : List Byte := S.toList.flatMap bytesBe32

end Sys2Proof.Machine
end

