-- ==== Sys2Proof/Machine/Script.lean ====
section
/-! DEFINITION. The host-script notation (spec/30_encoding.md R110, R111): its statements as host accesses. Host-side
control flow, and with it `WAIT`, is the host's own: a script that polls lists as many `STATUS` reads as it makes. -/

namespace Sys2Proof

/-- `WR32 reg, v`, at the register's offset (R110). -/
def Access.wr32 (off : Nat) (v : Word) : Access :=
  { space := .reg, dir := .write, addr := off, size := 4, data := v.toNat }

/-- `RD32 reg -> x`, at the register's offset (R110). -/
def Access.rd32 (off : Nat) : Access :=
  { space := .reg, dir := .read, addr := off, size := 4, data := 0 }

/-- `WR8 a, v` (R110). -/
def Access.wr8 (a : Nat) (v : Byte) : Access :=
  { space := .msg, dir := .write, addr := a, size := 1, data := v.toNat }

/-- `RD8 a -> x` (R110). -/
def Access.rd8 (a : Nat) : Access :=
  { space := .msg, dir := .read, addr := a, size := 1, data := 0 }

/-- The write of a word to `CMD` (offset 0x004), legal or not. -/
def Access.command (w : Word) : Access := Access.wr32 Reg.cmd.offset w

/-- `CMD name` (R111). -/
def scriptCmd (i : Instr) : List Access := [Access.command (encode i)]

/-- `WR64 LEN, v` (R111): the low half, then the high half. -/
def scriptWrLen (v : Dword) : List Access :=
  [Access.wr32 Reg.lenLo.offset (v.extractLsb' 0 32), Access.wr32 Reg.lenHi.offset (v.extractLsb' 32 32)]

/-- `WR64 BLK, v` (R111): the low half, then the high half. -/
def scriptWrBlk (v : Dword) : List Access :=
  [Access.wr32 Reg.blkLo.offset (v.extractLsb' 0 32), Access.wr32 Reg.blkHi.offset (v.extractLsb' 32 32)]

/-- `LOAD a, bytes` (R111): one byte write each, ascending. -/
def scriptLoad (a : Nat) (bytes : List Byte) : List Access :=
  match bytes with
  | [] => []
  | b :: bytes => Access.wr8 a b :: scriptLoad (a + 1) bytes

/-- `RDDIGEST` (R111): `RD32 H0` to `RD32 H7`; the host applies `toHex` to the eight words. -/
def scriptRdDigest : List Access := (List.finRange 8).map fun i => Access.rd32 (Reg.hash i).offset

/-- A script as events: its accesses, then `n` engine steps. -/
def scriptThenEngine (as : List Access) (n : Nat) : List Event :=
  as.map Event.access ++ List.replicate n .engine

end Sys2Proof
end

