-- ==== Sys2Proof/Machine/Port.lean ====
section
/-! DEFINITION. The host port: register read R216, register write R217, message memory access R219, with the checks in the
order of spec/60_exceptions.md R261. -/

namespace Sys2Proof.Machine

/-- The checks of size, alignment and range of a register access: `size != 4 or off mod 4 != 0 or off > 0x1FC` (R216, R217). -/
def badRegShape (off size : Nat) : Bool := size != 4 || off % 4 != 0 || decide (0x1FC < off)

/-- The checks of size and range of a message memory access: `size != 1 or a >= MSG_CAP` (R219). -/
def State.badMsgShape (s : State) (a size : Nat) : Bool := size != 1 || decide (s.cfg.msgCap ≤ a)

/-- The word a register read of size 4 at an aligned offset returns; none where it is rejected (R216). -/
def State.readOffset (s : State) (off : Nat) : Option Word :=
  match Reg.ofOffset off with
  | some r => s.readReg r
  | none => none

/-- Register read (R216). It changes nothing but the response. -/
def regRead (s : State) (off size : Nat) : State :=
  if badRegShape off size || (s.busy && off != 0x008) then s.reject
  else
    match s.readOffset off with
    | some v => s.respond (.okayWord v)
    | none => s.reject

/-- The write of a command word to `CMD` (R217, R223): an illegal word is rejected (R102), a command is run. -/
def commandWrite (s : State) (v : Word) : Host.Outcome State Fault Refusal :=
  match decode v with
  | .ok i => exec i s
  | .error _ => .next s.reject

/-- The write to a register at an offset (R217). -/
def writeOffset (s : State) (off : Nat) (v : Word) : Host.Outcome State Fault Refusal :=
  match Reg.ofOffset off with
  | none => .next s.reject
  | some .cmd => commandWrite s v
  | some r =>
    match s.writeReg r v with
    | some s' => .next (s'.respond .okay)
    | none => .next s.reject

/-- Register write (R217). -/
def regWrite (s : State) (off size : Nat) (v : Word) : Host.Outcome State Fault Refusal :=
  if badRegShape off size || s.busy then .next s.reject else writeOffset s off v

/-- Message memory read (R219): the byte, a free value where nothing wrote it since reset (spec/10_state.md R37, log 3). -/
def msgRead (s : State) (a size : Nat) : State :=
  if s.badMsgShape a size || s.busy then s.reject else (s.respond (.okayByte (s.msgByte a))).countRead

/-- Message memory write (R219). -/
def msgWrite (s : State) (a size : Nat) (v : Byte) : State :=
  if s.badMsgShape a size || s.busy then s.reject else (s.writeMsg a v).respond .okay

/-- One host access (R109, R215): atomic, with its response. The data of a write is cut to the access's width (log 11). -/
def hostAccess (s : State) (a : Access) : Host.Outcome State Fault Refusal :=
  match a.space, a.dir with
  | .reg, .read => .next (regRead s a.addr a.size)
  | .reg, .write => regWrite s a.addr a.size (BitVec.ofNat 32 a.data)
  | .msg, .read => .next (msgRead s a.addr a.size)
  | .msg, .write => .next (msgWrite s a.addr a.size (BitVec.ofNat 8 a.data))

/-- One event of the instance (spec/20_memory.md R82): a host access, an engine step, or a reset. -/
def doEvent (s : State) (e : Event) : Host.Outcome State Fault Refusal :=
  match e with
  | .access a => hostAccess s a
  | .engine => engineStep s
  | .reset => .next s.resetEvent

/-- The next event: the first of the list, or an engine step once the list is empty (the engine "eventually takes its next
step", spec/70 R288, log 4). -/
def nextEvent (s : State) : Host.Outcome State Fault Refusal :=
  match s.events with
  | [] => engineStep s
  | e :: rest => doEvent { s with events := rest } e

/-- The state in which the host's next access is the write of the word `v` to `CMD` and the engine is not running, so that
the next step runs that command (log 13). -/
def State.withCommandWord (s : State) (v : Word) : State :=
  { s with events := .access (Access.command v) :: s.events, phase := .idle }

end Sys2Proof.Machine
end

