-- ==== Sys2Proof/Machine/Step.lean ====
section
/-! DEFINITION. One step of the machine, and the placing of a command word where the next step takes it from. -/

namespace Sys2Proof.Machine

/-- One step: the next event of the instance (spec/20_memory.md R79, R82). -/
def step (s : State) : Host.Outcome State Fault Refusal := nextEvent s

/-- The state whose very next step runs the command word of `nbits` bits with value `w` (log 13). -/
def State.withFetchWord (s : State) (nbits w : Nat) : State :=
  s.withCommandWord (BitVec.ofNat 32 (w % 2 ^ nbits))

end Sys2Proof.Machine
end

