-- ==== Sys2Proof/Safety.lean ====
section
/-! DEFINITION. What counts as a safe run: the state invariant of spec/10_state.md R60, and what a host may take as a
result (spec/70 R285, spec/60 R257). -/

namespace Sys2Proof.Machine

/-- `PHASE` in {SCHED, WINIT, ROUND, ADD}: a block is being scheduled or compressed (R60 item 4). -/
def Phase.onBlock : Phase → Bool
  | .idle => false
  | .pad => false
  | .sched => true
  | .winit => true
  | .round => true
  | .add => true

/-- The invariant of R60, with what makes it inductive. Item 2's clause about `BLK` speaks of the run since the last
`DIGEST` and is stated of the steps: the one that sets `VALID`, and every later one but a host write to `BLK`. -/
structure State.Inv (s : State) : Prop where
  /-- The parameters are in the ranges of spec/00_scope.md R8. -/
  cfgWf : s.cfg.wf
  /-- The memory is in its canonical form. -/
  msgWf : s.msg.wf
  /-- Nothing is written outside `MSG[0 .. MSG_CAP-1]`. -/
  msgBound : ∀ c ∈ s.msg, c.1 < s.cfg.msgCap
  /-- R60 item 1: while busy, `VALID` = 0 and `ERR` = 0. -/
  busyClean : s.phase ≠ .idle → s.valid = false ∧ s.err = .none
  /-- R60 item 2: `VALID` = 1 implies `ERR` = 0 and `PADLEN` nonzero. -/
  validClean : s.valid = true → s.err = .none ∧ s.padlen ≠ 0
  /-- R60 item 3: `PADLEN` is 0, or a multiple of 64 in 64 .. MSG_CAP. -/
  padlenShape : s.padlen = 0 ∨
    (s.padlen.toNat % 64 = 0 ∧ 64 ≤ s.padlen.toNat ∧ s.padlen.toNat ≤ s.cfg.msgCap)
  /-- R60 item 4. -/
  blockInside : s.phase.onBlock = true → 64 * s.blk.toNat + 64 ≤ s.cfg.msgCap
  /-- R60 item 5. -/
  padRange : s.phase = .pad →
    s.len.toNat ≤ s.p.toNat ∧ s.p.toNat < s.padlen.toNat ∧ s.padlen.toNat = padLength s.len.toNat
  /-- No PADBYTE step belongs to a `BLOCK` (spec/44_digest_driver.md R198). -/
  padCommand : s.phase = .pad → s.opk ≠ .block
  /-- A `DIGEST` starts its blocks at 0 (R227). -/
  padDigest : s.phase = .pad → s.opk = .digest → s.blk = 0
  /-- No block is compressed for a `PAD` (R198). -/
  blockCommand : s.phase.onBlock = true → s.opk ≠ .pad
  /-- A running `DIGEST` has blocks left (R178). -/
  blockDigest : s.phase.onBlock = true → s.opk = .digest → 64 * s.blk.toNat < s.padlen.toNat
  /-- A command that uses the constants runs only in a build that has them (R225, R227). -/
  kromRunning : s.phase ≠ .idle → s.opk ≠ .pad → s.cfg.kromOk = true

/-- The number of engine steps of one block: 64 SCHED, WINIT, 64 ROUND, ADD (spec/44_digest_driver.md R199). -/
def blockSteps : Nat := 130

/-- The engine steps of a `DIGEST` of `L` bytes (R199). -/
def digestSteps (L : Nat) : Nat := (padLength L - L) + blockSteps * (padLength L / 64)

/-- The engine steps of the blocks of a `DIGEST` after the one that is running. -/
def State.laterBlockSteps (s : State) : Nat :=
  match s.opk with
  | .pad => 0
  | .block => 0
  | .digest => blockSteps * (s.padlen.toNat / 64 - s.blk.toNat - 1)

/-- The engine steps a running command has left (R198, R199). -/
def State.stepsLeft (s : State) : Nat :=
  match s.phase with
  | .idle => 0
  | .pad =>
    (s.padlen.toNat - s.p.toNat) +
      (if s.opk = .digest then blockSteps * (s.padlen.toNat / 64) else 0)
  | .sched => (64 - s.t.val) + 66 + s.laterBlockSteps
  | .winit => 66 + s.laterBlockSteps
  | .round => (64 - s.t.val) + 1 + s.laterBlockSteps
  | .add => 1 + s.laterBlockSteps

/-- `B` has the byte of each written address of block `b`; where nothing was written since reset, any byte (spec/10_state.md
R37). -/
def State.BlockIs (s : State) (b : Nat) (B : Vector Byte 64) : Prop :=
  ∀ (i : Fin 64) (v : Byte), s.msg.read (64 * b + i.val) = some v → B[i] = v

/-- `M` is `MSG[0 .. LEN-1]`: `LEN` bytes, at each written address the byte there; where nothing was written since reset, any
byte ("a message containing that unspecified byte", R37). -/
def State.MessageIs (s : State) (M : List Byte) : Prop :=
  M.length = s.len.toNat ∧
    ∀ (a : Nat) (v : Byte), a < s.len.toNat → s.msg.read a = some v → M[a]? = some v

/-- The host has written every byte of the message (spec/70 R283 item 3). -/
def State.MessageWritten (s : State) : Prop := ∀ a < s.len.toNat, s.msg.read a ≠ none

/-- A `DIGEST` or a `PAD` of this state passes its length checks (R226, R227). -/
abbrev State.LengthOk (s : State) : Prop :=
  (s.len = 0 → s.allowEmpty = true) ∧ padLength s.len.toNat ≤ s.cfg.msgCap

/-- The memory `m` after the padding of a message of `L` bytes in `s` (spec/41 R147 item 5): the padding at `L .. P-1`, every
other address as before. -/
def State.PaddedTo (s : State) (L : Nat) (m : Memory) : Prop :=
  ∀ a, m.read a = if L ≤ a ∧ a < padLength L then some (padByte L a) else s.msg.read a

/-- The long way of R203 as a script: `INIT`; `PAD`, run to its end; `BLK` <- 0; then `PADLEN / 64` times `BLOCK`, each run to
its end. -/
def longWay (L : Nat) : List Event :=
  scriptThenEngine (scriptCmd .init ++ scriptCmd .pad) (padLength L - L) ++
    (scriptWrBlk 0).map Event.access ++
    (List.replicate (padLength L / 64) (scriptThenEngine (scriptCmd .block) blockSteps)).flatten

/-- One `DIGEST` as a script, run to its end. -/
def shortWay (L : Nat) : List Event := scriptThenEngine (scriptCmd .digest) (digestSteps L)

/-- The result of a run as a host sees it (R285): `STATUS`, `H0..H7` as read, `PADLEN`, `BLK`, and `MSG`. -/
structure RunResult where
  status : Word
  hash : Hash
  padlen : Dword
  blk : Dword
  msg : Memory
  deriving DecidableEq, Repr

/-- The result tuple of R285 in a state. -/
def State.result (s : State) : RunResult :=
  { status := s.statusWord
    hash := Vector.ofFn s.hashGated
    padlen := s.padlen
    blk := s.blk
    msg := s.msg }

end Sys2Proof.Machine
end

