-- ==== Sys2Proof/Certificates/Slice0/Obligations.lean ====
section
/-! DEFINITION. The statements for the provers, in the order of the spec's files. A statement whose conclusion is one record
equality `= .next { s with … }` says both what changes and that nothing else does: every register, flag, special register
and byte of memory not named in it is as in `s`. -/

open Sys2Proof Sys2Proof.Machine

/-! ### Primitives and encodings -/

/-- R14: "bit i of the result is bit (i + n) mod 32 of x", for 1 <= n <= 31. -/
def Obligations.RotateMovesEachBit : Prop :=
  ∀ (x : Word) (n i : Nat), 1 ≤ n → n ≤ 31 → i < 32 →
    (rotr x n).getLsbD i = x.getLsbD ((i + n) % 32)

/-- R173 and R175, bit by bit: `ch` selects, `maj` is the majority. -/
def Obligations.ChSelectsAndMajVotes : Prop :=
  ∀ (x y z : Word) (i : Nat), i < 32 →
    (ch x y z).getLsbD i = (if x.getLsbD i then y.getLsbD i else z.getLsbD i) ∧
    (maj x y z).getLsbD i =
      decide (2 ≤ (x.getLsbD i).toNat + (y.getLsbD i).toNat + (z.getLsbD i).toNat)

/-- R17 and R18: the byte packings are inverse to the unpackings, and the sums of both rules: the first byte is the most
significant. -/
def Obligations.ByteOrderRoundTrips : Prop :=
  (∀ w : Word, ∃ b0 b1 b2 b3, bytesBe32 w = [b0, b1, b2, b3] ∧ be32 b0 b1 b2 b3 = w) ∧
  (∀ b0 b1 b2 b3 : Byte, bytesBe32 (be32 b0 b1 b2 b3) = [b0, b1, b2, b3] ∧
    (be32 b0 b1 b2 b3).toNat =
      b0.toNat * 2 ^ 24 + b1.toNat * 2 ^ 16 + b2.toNat * 2 ^ 8 + b3.toNat) ∧
  (∀ d : Dword, ∃ b0 b1 b2 b3 b4 b5 b6 b7,
    bytesBe64 d = [b0, b1, b2, b3, b4, b5, b6, b7] ∧ be64 b0 b1 b2 b3 b4 b5 b6 b7 = d) ∧
  (∀ b0 b1 b2 b3 b4 b5 b6 b7 : Byte,
    bytesBe64 (be64 b0 b1 b2 b3 b4 b5 b6 b7) = [b0, b1, b2, b3, b4, b5, b6, b7] ∧
    (be64 b0 b1 b2 b3 b4 b5 b6 b7).toNat =
      b0.toNat * 2 ^ 56 + b1.toNat * 2 ^ 48 + b2.toNat * 2 ^ 40 + b3.toNat * 2 ^ 32 +
        b4.toNat * 2 ^ 24 + b5.toNat * 2 ^ 16 + b6.toNat * 2 ^ 8 + b7.toNat)

/-- R101: the six words, written out from the encoding, decode to their commands. -/
def Obligations.CommandWordsDecode : Prop :=
  decode 0x00000000 = .ok .nop ∧ decode 0x00000001 = .ok .init ∧ decode 0x00000002 = .ok .pad ∧
  decode 0x00000003 = .ok .block ∧ decode 0x00000004 = .ok .digest ∧ decode 0x00000005 = .ok .clear

/-- R100, R101: decoder and encoder agree in both directions. -/
def Obligations.DecodeIffEncode : Prop :=
  ∀ (w : Word) (i : Instr), decode w = .ok i ↔ w = encode i

/-- R102: a word with `OP` in 0x6 .. 0xF or a bit of `ZERO` set is rejected, with no state change; no encoding behaves as
another command. -/
def Obligations.IllegalWordsAreRejected : Prop :=
  (∀ (s : State) (w : Word), 6 ≤ w.toNat % 16 ∨ w.toNat / 16 ≠ 0 →
    hostAccess s (Access.command w) = .next { s with resp := some .error }) ∧
  (∀ (w v : Word) (i : Instr), decode w = .ok i → decode v = .ok i → w = v)

/-- R112: the decoder reads what the opcode table alone says, and illegal words match no row. -/
def Obligations.DecoderIsTheOpcodeTable : Prop :=
  ∀ w : Word, (decode w).toOption = tableLookup w

/-- R45: each register has one offset, and an offset names a register exactly when it is that register's. -/
def Obligations.RegisterMapIsOneToOne : Prop :=
  ∀ (r : Reg) (off : Nat), Reg.ofOffset off = some r ↔ off = r.offset

/-! ### The constants -/

/-- R126: the listed numbers are "the first 64 prime numbers (ascending)", the primes up to 311. -/
def Obligations.RomPrimesAreTheFirst64 : Prop :=
  romPrimes.length = 64 ∧ romPrimes.Pairwise (· < ·) ∧ ∀ n : Nat, n ∈ romPrimes ↔ n.Prime ∧ n ≤ 311

/-- R127: `K[t] = floor((c - floor(c)) * 2^32)` for the real `c` with `c^3 = p_t`; the exact integer form; the worked example
p = 2. -/
def Obligations.RoundConstantsAreCubeRootFractions : Prop :=
  (∀ (t : Fin 64) (p : Nat), romPrimes[t.val]? = some p →
    (∀ c : ℝ, c ^ 3 = (p : ℝ) → ⌊(c - ⌊c⌋) * 2 ^ 32⌋ = ((Config.k[t]).toNat : ℤ)) ∧
    (icbrt (p * 2 ^ 96)) ^ 3 ≤ p * 2 ^ 96 ∧ p * 2 ^ 96 < (icbrt (p * 2 ^ 96) + 1) ^ 3 ∧
    (Config.k[t]).toNat = icbrt (p * 2 ^ 96) % 2 ^ 32) ∧
  (romPrimes[0]? = some 2 ∧ (Config.k[0]).toNat = 1116352408 ∧ Config.k[0] = 0x428a2f98)

/-! ### The host port -/

/-- R216, the register read as one function of the offset and the size. -/
def Obligations.RegisterReadTable : Prop :=
  ∀ (s : State) (off size data : Nat),
    hostAccess s ⟨.reg, .read, off, size, data⟩ =
      .next { s with resp := some (
        match
          (if size ≠ 4 ∨ off % 4 ≠ 0 ∨ 0x1FC < off then none
          else if s.phase ≠ .idle ∧ off ≠ 0x008 then none
          else if off = 0x000 then some (if s.allowEmpty then 1 else 0)
          else if off = 0x008 then
            some (BitVec.ofNat 32
              ((if s.phase = .idle then 0 else 1) + 2 * s.valid.toNat + 16 * s.err.code.toNat))
          else if off = 0x010 then some (BitVec.ofNat 32 s.len.toNat)
          else if off = 0x014 then some (BitVec.ofNat 32 (s.len.toNat / 2 ^ 32))
          else if off = 0x018 then some (BitVec.ofNat 32 s.padlen.toNat)
          else if off = 0x01C then some (BitVec.ofNat 32 (s.padlen.toNat / 2 ^ 32))
          else if 0x020 ≤ off ∧ off ≤ 0x03C then
            (if s.err = .none then s.h[(off - 0x020) / 4]? else some 0)
          else if off = 0x040 then some (BitVec.ofNat 32 s.blk.toNat)
          else if off = 0x044 then some (BitVec.ofNat 32 (s.blk.toNat / 2 ^ 32))
          else if off = 0x048 then some (BitVec.ofNat 32 s.cfg.msgCap)
          else if off = 0x04C then some (BitVec.ofNat 32 (s.cfg.msgCap / 2 ^ 32))
          else if 0x100 ≤ off then
            (if s.cfg.kromOk then Config.k[(off - 0x100) / 4]? else none)
          else (none : Option Word)) with
        | some v => .okayWord v
        | none => .error) }

/-- R217, the register write as one function of the offset and the size; a write to `CMD` runs the command procedure. -/
def Obligations.RegisterWriteTable : Prop :=
  ∀ (s : State) (off size : Nat) (v : Word),
    hostAccess s ⟨.reg, .write, off, size, v.toNat⟩ =
      (if size ≠ 4 ∨ off % 4 ≠ 0 ∨ 0x1FC < off then .next { s with resp := some .error }
      else if s.phase ≠ .idle then .next { s with resp := some .error }
      else if off = 0x000 then
        .next { s with allowEmpty := decide (v.toNat % 2 = 1), resp := some .okay }
      else if off = 0x004 then
        (match decode v with
        | .ok i => exec i s
        | .error _ => .next { s with resp := some .error })
      else if off = 0x010 then
        .next { s with
          len := BitVec.ofNat 64 (s.len.toNat / 2 ^ 32 * 2 ^ 32 + v.toNat), resp := some .okay }
      else if off = 0x014 then
        .next { s with
          len := BitVec.ofNat 64 (v.toNat * 2 ^ 32 + s.len.toNat % 2 ^ 32), resp := some .okay }
      else if off = 0x040 then
        .next { s with
          blk := BitVec.ofNat 64 (s.blk.toNat / 2 ^ 32 * 2 ^ 32 + v.toNat), resp := some .okay }
      else if off = 0x044 then
        .next { s with
          blk := BitVec.ofNat 64 (v.toNat * 2 ^ 32 + s.blk.toNat % 2 ^ 32), resp := some .okay }
      else .next { s with resp := some .error })

/-- R219: message memory reads and writes. A read of a written byte returns it, of an unwritten one any byte, and changes
nothing of the block (`freeCount` is the model's own, log 3); a write leaves every other byte as it was. -/
def Obligations.MessageMemoryAccess : Prop :=
  (∀ (s : State) (dir : Dir) (a size data : Nat),
    size ≠ 1 ∨ s.cfg.msgCap ≤ a ∨ s.phase ≠ .idle →
      hostAccess s ⟨.msg, dir, a, size, data⟩ = .next { s with resp := some .error }) ∧
  (∀ (s : State) (a data : Nat), a < s.cfg.msgCap → s.phase = .idle →
    ∃ (v : Byte) (fc : Nat), (∀ b, s.msg.read a = some b → v = b) ∧
      hostAccess s ⟨.msg, .read, a, 1, data⟩ =
        .next { s with resp := some (.okayByte v), freeCount := fc }) ∧
  (∀ (s : State) (a : Nat) (v : Byte), a < s.cfg.msgCap → s.phase = .idle →
    ∃ m : Memory,
      hostAccess s ⟨.msg, .write, a, 1, v.toNat⟩ = .next { s with msg := m, resp := some .okay } ∧
      m.read a = some v ∧ ∀ b, b ≠ a → m.read b = s.msg.read b)

/-- R218: while busy every access is rejected, except a 32-bit read of `STATUS`. -/
def Obligations.BusyLockOut : Prop :=
  ∀ (s : State) (a : Access), s.phase ≠ .idle →
    hostAccess s a = .next { s with resp := some (
      if a.space = .reg ∧ a.dir = .read ∧ a.addr = 0x008 ∧ a.size = 4 then
        .okayWord s.statusWord
      else .error) }

/-- R220: whatever access answers ERROR has changed no state of the block. -/
def Obligations.ErrorResponseChangesNothing : Prop :=
  ∀ (s t : State) (a : Access), hostAccess s a = .next t → t.resp = some .error →
    t = { s with resp := some .error }

/-- R80: no read has a side effect, and a write outside `CMD` changes only its own register or byte, of `LEN` and `BLK` only
the half it names; a write anywhere else changes nothing. `resp` and `freeCount` are the model's own (log 5, log 3). -/
def Obligations.AccessesHaveNoSideEffects : Prop :=
  ∀ (s t : State) (a : Access), hostAccess s a = .next t →
    (a.dir = .read → t = { s with resp := t.resp, freeCount := t.freeCount }) ∧
    (a.dir = .write → a.space = .msg →
      t = { s with msg := t.msg, resp := t.resp } ∧
      ∀ b, b ≠ a.addr → t.msg.read b = s.msg.read b) ∧
    (a.dir = .write → a.space = .reg →
      (a.addr = 0x000 → t = { s with allowEmpty := t.allowEmpty, resp := t.resp }) ∧
      (a.addr = 0x010 → t = { s with len := t.len, resp := t.resp } ∧
        t.len.toNat / 2 ^ 32 = s.len.toNat / 2 ^ 32) ∧
      (a.addr = 0x014 → t = { s with len := t.len, resp := t.resp } ∧
        t.len.toNat % 2 ^ 32 = s.len.toNat % 2 ^ 32) ∧
      (a.addr = 0x040 → t = { s with blk := t.blk, resp := t.resp } ∧
        t.blk.toNat / 2 ^ 32 = s.blk.toNat / 2 ^ 32) ∧
      (a.addr = 0x044 → t = { s with blk := t.blk, resp := t.resp } ∧
        t.blk.toNat % 2 ^ 32 = s.blk.toNat % 2 ^ 32) ∧
      (a.addr ∉ [0x000, 0x004, 0x010, 0x014, 0x040, 0x044] → t = { s with resp := t.resp }))

/-- R48: `STATUS` is `BUSY + 2 * VALID + 16 * ERR`; `BUSY` = 1 implies `VALID` = 0 and `ERR` = 0, so it takes one of six
values. -/
def Obligations.StatusWordValues : Prop :=
  (∀ s : State, s.statusWord.toNat =
    (if s.phase = .idle then 0 else 1) + 2 * s.valid.toNat + 16 * s.err.code.toNat) ∧
  (∀ s : State, s.Inv →
    s.statusWord ∈ ([0x00, 0x01, 0x02, 0x10, 0x20, 0x30] : List Word))

/-- R257: while `ERR` is not 0, `VALID` = 0 and reads of `H0..H7` return 0. -/
def Obligations.NoDigestWhileErrorIsSet : Prop :=
  ∀ (s : State) (i : Fin 8), s.Inv → s.err ≠ .none →
    s.valid = false ∧
    hostAccess s (Access.rd32 (0x020 + 4 * i.val)) = .next { s with resp := some (.okayWord 0) }

/-! ### The commands at acceptance -/

/-- R222: `NOP`. -/
def Obligations.NopHasNoEffect : Prop :=
  encode .nop = 0x00000000 ∧
  ∀ s : State, s.phase = .idle → exec .nop s = .next { s with resp := some .okay }

/-- R224: `INIT`. -/
def Obligations.InitLoadsTheInitialValue : Prop :=
  encode .init = 0x00000001 ∧
  (∀ s : State, s.phase = .idle → s.err = .none →
    exec .init s = .next { s with valid := false, h := Config.iv, resp := some .okay }) ∧
  (∀ s : State, s.err ≠ .none → exec .init s = .next { s with resp := some .error })

/-- R228: `CLEAR`. -/
def Obligations.ClearEndsTheErrorState : Prop :=
  encode .clear = 0x00000005 ∧
  ∀ s : State, s.phase = .idle →
    exec .clear s = .next { s with err := .none, valid := false, resp := some .okay }

/-- R226: `PAD` at acceptance, its two errors and its start. -/
def Obligations.PadAcceptance : Prop :=
  ∀ s : State, s.phase = .idle → s.err = .none →
    exec .pad s =
      if s.len = 0 ∧ s.allowEmpty = false then
        .next { s with valid := false, padlen := 0, err := .empty, resp := some .okay }
      else if s.cfg.msgCap < padLength s.len.toNat then
        .next { s with valid := false, padlen := 0, err := .alloc, resp := some .okay }
      else
        .next { s with
          valid := false, padlen := BitVec.ofNat 64 (padLength s.len.toNat), p := s.len,
          opk := .pad, phase := .pad, resp := some .okay }

/-- R225 with R223: `BLOCK`, rejected outside the memory, its error and its start. -/
def Obligations.BlockAcceptance : Prop :=
  ∀ s : State, s.phase = .idle → s.err = .none →
    exec .block s =
      if s.cfg.msgCap < 64 * s.blk.toNat + 64 then .next { s with resp := some .error }
      else if s.cfg.kromOk = false then
        .next { s with valid := false, err := .const, resp := some .okay }
      else
        .next { s with valid := false, t := 0, opk := .block, phase := .sched, resp := some .okay }

/-- R227 with the order of R260: `DIGEST` at acceptance, its three errors and its start. -/
def Obligations.DigestAcceptance : Prop :=
  ∀ s : State, s.phase = .idle → s.err = .none →
    exec .digest s =
      if s.cfg.kromOk = false then
        .next { s with valid := false, padlen := 0, err := .const, resp := some .okay }
      else if s.len = 0 ∧ s.allowEmpty = false then
        .next { s with valid := false, padlen := 0, err := .empty, resp := some .okay }
      else if s.cfg.msgCap < padLength s.len.toNat then
        .next { s with valid := false, padlen := 0, err := .alloc, resp := some .okay }
      else
        .next { s with
          valid := false, h := Config.iv, blk := 0,
          padlen := BitVec.ofNat 64 (padLength s.len.toNat), p := s.len,
          opk := .digest, phase := .pad, resp := some .okay }

/-- R226: MalformedInput and AllocationFailure "exclude each other"; R144: the padded message fits iff `LEN + 9` does. -/
def Obligations.LengthErrorsExcludeEachOther : Prop :=
  ∀ (c : Config), c.wf → padLength 0 ≤ c.msgCap ∧
    ∀ L : Nat, (padLength L ≤ c.msgCap ↔ L + 9 ≤ c.msgCap)

/-- R223, R258: while an error is set, every command but `NOP` and `CLEAR` is rejected; while busy, every command is. -/
def Obligations.CommandsRejectedWhileErrorOrBusy : Prop :=
  ∀ (s : State) (i : Instr),
    (s.err ≠ .none ∧ i ≠ .nop ∧ i ≠ .clear) ∨ s.phase ≠ .idle →
      exec i s = .next { s with resp := some .error }

/-- R256: the error entry. The failing command has had no effect except `VALID` <- 0, the code, and for `PAD` and `DIGEST`
`PADLEN` <- 0; its response is OKAY. -/
def Obligations.ErrorEntryIsPrecise : Prop :=
  ∀ (s t : State) (i : Instr), s.err = .none → exec i s = .next t → t.err ≠ .none →
    (i = .pad ∨ i = .block ∨ i = .digest) ∧
    t = { s with err := t.err, valid := false, resp := some .okay,
                 padlen := if i = .block then s.padlen else 0 } ∧
    t.phase = .idle

/-! ### One step of the machine -/

/-- The next event being the write of a command's word to `CMD`, the step is `exec` of that command in the state without
the event; and the same for the word that `withFetchWord` places, the engine not running (log 13). -/
def Obligations.StepRunsTheDecodedCommand : Prop :=
  (∀ (s : State) (w : Word) (i : Instr) (rest : List Event),
    s.events = .access (Access.command w) :: rest → decode w = .ok i →
      step s = exec i { s with events := rest }) ∧
  (∀ (s : State) (w : Nat) (i : Instr), decodeTableWord 32 w = some i →
    step (s.withFetchWord 32 w) = exec i { s with phase := .idle })

/-- Event by event (R82): the first listed event happens; with none listed the engine moves, and in IDLE nothing does
(R267). -/
def Obligations.StepTakesEventsInOrder : Prop :=
  ∀ s : State,
    (s.events = [] → step s = engineStep s) ∧
    (s.phase = .idle → engineStep s = .next s) ∧
    (∀ rest, s.events = .engine :: rest → step s = engineStep { s with events := rest }) ∧
    (∀ a rest, s.events = .access a :: rest → step s = hostAccess { s with events := rest } a) ∧
    (∀ rest, s.events = .reset :: rest → step s = .next { s with events := rest }.resetEvent)

/-- R59, R280, R281: the machine after reset, and a reset at any time, has the values the spec gives; the instance stays the
same (R282). -/
def Obligations.ResetLeavesTheSpecsValues : Prop :=
  (State.reset.h = Config.iv ∧ State.reset.phase = .idle ∧ State.reset.valid = false ∧
    State.reset.err = .none ∧ State.reset.allowEmpty = false ∧ State.reset.len = 0 ∧
    State.reset.padlen = 0 ∧ State.reset.blk = 0 ∧ State.reset.statusWord = 0x00000000) ∧
  ∀ (s : State) (rest : List Event), s.events = .reset :: rest →
    ∃ t, step s = .next t ∧ t.h = Config.iv ∧ t.phase = .idle ∧ t.valid = false ∧
      t.err = (if s.cfg.kromOk then .none else .const) ∧ t.allowEmpty = false ∧
      t.len = 0 ∧ t.padlen = 0 ∧ t.blk = 0 ∧ t.cfg = s.cfg

/-- R282: "The configuration survives every reset unchanged", and every other step too. -/
def Obligations.ConfigurationNeverChanges : Prop :=
  ∀ s t : State, step s = .next t → t.cfg = s.cfg

/-- R60: the invariant holds after the reset of every well-formed instance. -/
def Obligations.InvariantHoldsAtReset : Prop :=
  State.reset.Inv ∧ ∀ c : Config, c.wf → (State.resetOf c).Inv

/-- R60: every step keeps the invariant. -/
def Obligations.InvariantIsKeptByEveryStep : Prop :=
  ∀ s t : State, s.Inv → step s = .next t → t.Inv

/-- R198, R254: in a state that meets the invariant no step stops. -/
def Obligations.NoStepStopsUnderTheInvariant : Prop :=
  ∀ s : State, s.Inv → ∃ t, step s = .next t

/-- R26: the hash state is written only by the add-back, by `INIT` and `DIGEST`, which load `IV`, and by reset. -/
def Obligations.HashStateIsWrittenOnlyBy : Prop :=
  ∀ s t : State, step s = .next t → t.h ≠ s.h →
    (s.phase = .add ∧ t.h = addBack s.h s.vars ∧
      (s.events = [] ∨ ∃ rest, s.events = .engine :: rest)) ∨
    (t.h = Config.iv ∧
      ((∃ rest, s.events = .reset :: rest) ∨
       ∃ a rest, s.events = .access a :: rest ∧ s.phase = .idle ∧ s.err = .none ∧
         a.space = .reg ∧ a.dir = .write ∧ a.addr = 0x004 ∧ a.size = 4 ∧
         (decode (BitVec.ofNat 32 a.data) = .ok .init ∨
          decode (BitVec.ofNat 32 a.data) = .ok .digest)))

/-- R38: `VALID` is "set to 1 only by the last ADD step of a `DIGEST`", and then `BLK = PADLEN / 64`; R60 item 2: that stays
so while `VALID` is 1, "provided the host has not written `BLK` since". -/
def Obligations.ValidIsSetOnlyByTheLastAdd : Prop :=
  (∀ s t : State, s.Inv → step s = .next t → s.valid = false → t.valid = true →
    s.phase = .add ∧ s.opk = .digest ∧ t.phase = .idle ∧ t.h = addBack s.h s.vars ∧
    64 * t.blk.toNat = t.padlen.toNat) ∧
  (∀ s t : State, s.Inv → s.valid = true → 64 * s.blk.toNat = s.padlen.toNat →
    step s = .next t → t.valid = true →
    (∀ a rest, s.events = .access a :: rest →
      ¬ (a.space = .reg ∧ a.dir = .write ∧ (a.addr = 0x040 ∨ a.addr = 0x044))) →
    64 * t.blk.toNat = t.padlen.toNat)

/-- R250: an error arises only at the acceptance of a command, with the cause of its code, or at reset. -/
def Obligations.ErrorsArisePerTheTable : Prop :=
  ∀ s t : State, step s = .next t → s.err = .none → t.err ≠ .none →
    ((∃ rest, s.events = .reset :: rest) ∧ s.cfg.kromOk = false ∧ t.err = .const) ∨
    (∃ i w rest, s.events = .access (Access.mk .reg .write 0x004 4 w) :: rest ∧
      decode (BitVec.ofNat 32 w) = .ok i ∧ s.phase = .idle ∧
      ((t.err = .const ∧ (i = .block ∨ i = .digest) ∧ s.cfg.kromOk = false) ∨
       (t.err = .alloc ∧ (i = .pad ∨ i = .digest) ∧ s.cfg.msgCap < padLength s.len.toNat) ∨
       (t.err = .empty ∧ (i = .pad ∨ i = .digest) ∧ s.len = 0 ∧ s.allowEmpty = false)))

/-- R258, R259: an error keeps its value until a `CLEAR` command, which sets `ERR` to 0, or a reset. -/
def Obligations.ErrorsAreSticky : Prop :=
  ∀ s t : State, step s = .next t → s.err ≠ .none → t.err ≠ s.err →
    (∃ rest, s.events = .reset :: rest) ∨
    (t.err = .none ∧ ∃ w rest, s.events = .access (Access.mk .reg .write 0x004 4 w) :: rest ∧
      decode (BitVec.ofNat 32 w) = .ok .clear)

/-- R81, R36: a byte of `MSG` changes only by a host write to it, by the PADBYTE step at it (an address in
`LEN .. PADLEN-1`), or by reset. -/
def Obligations.MessageBytesChangeOnlyBy : Prop :=
  ∀ (s t : State) (a : Nat), s.Inv → step s = .next t → t.msg.read a ≠ s.msg.read a →
    (∃ rest, s.events = .reset :: rest) ∨
    (s.phase = .pad ∧ a = s.p.toNat ∧ s.len.toNat ≤ a ∧ a < s.padlen.toNat ∧
      t.msg.read a = some (padByte s.len.toNat a)) ∨
    (s.phase = .idle ∧ ∃ v rest, s.events = .access (Access.mk .msg .write a 1 v) :: rest ∧
      t.msg.read a = some (BitVec.ofNat 8 v))

/-- R40 and the table of R198: `PHASE` leaves IDLE only by an accepted `PAD`, `BLOCK` or `DIGEST`, and returns to it only by
the last PADBYTE of a `PAD`, by the ADD of a `BLOCK` or the last ADD of a `DIGEST`, or by reset. -/
def Obligations.PhaseLeavesAndReturnsPerTheTable : Prop :=
  ∀ s t : State, s.Inv → step s = .next t →
    (s.phase = .idle → t.phase ≠ .idle →
      ∃ w rest, s.events = .access (Access.mk .reg .write 0x004 4 w) :: rest ∧ s.err = .none ∧
        ((decode (BitVec.ofNat 32 w) = .ok .pad ∧ t.phase = .pad ∧ t.opk = .pad) ∨
         (decode (BitVec.ofNat 32 w) = .ok .digest ∧ t.phase = .pad ∧ t.opk = .digest) ∨
         (decode (BitVec.ofNat 32 w) = .ok .block ∧ t.phase = .sched ∧ t.opk = .block))) ∧
    (s.phase ≠ .idle → t.phase = .idle →
      (∃ rest, s.events = .reset :: rest) ∨
      (s.phase = .pad ∧ s.opk = .pad ∧ s.p.toNat + 1 = s.padlen.toNat) ∨
      (s.phase = .add ∧ s.opk ≠ .pad ∧
        ¬ (s.opk = .digest ∧ 64 * (s.blk.toNat + 1) < s.padlen.toNat)))

/-! ### The engine's steps -/

/-- R141: PADBYTE. One byte is written, at `p`; every other byte reads as before; then `p`, or what the command does next.
That `p`, and `OPK` at the end of a `PAD`, keep their values after the last byte, where R42 and R43 leave them unspecified,
is the model's choice (log 9). -/
def Obligations.PadByteStepWritesOneByte : Prop :=
  ∀ s : State, s.Inv → s.phase = .pad →
    ∃ m : Memory,
      m.read s.p.toNat = some (padByte s.len.toNat s.p.toNat) ∧
      (∀ a, a ≠ s.p.toNat → m.read a = s.msg.read a) ∧
      engineStep s =
        if s.p.toNat + 1 < s.padlen.toNat then .next { s with msg := m, p := s.p + 1 }
        else if s.opk = .pad then .next { s with msg := m, phase := .idle }
        else .next { s with msg := m, t := 0, phase := .sched }

/-- R157: SCHED, load form; `MSG[64*BLK + 4*t]` is the most significant byte. Written bytes are read as they are; the counter
of the free values, and that it goes up by one, are the model's own choice (log 3). -/
def Obligations.ScheduleLoadStep : Prop :=
  ∀ s : State, s.Inv → s.phase = .sched → s.t.val ≤ 15 →
    ∃ b0 b1 b2 b3 : Byte,
      (∀ v, s.msg.read (64 * s.blk.toNat + 4 * s.t.val) = some v → b0 = v) ∧
      (∀ v, s.msg.read (64 * s.blk.toNat + 4 * s.t.val + 1) = some v → b1 = v) ∧
      (∀ v, s.msg.read (64 * s.blk.toNat + 4 * s.t.val + 2) = some v → b2 = v) ∧
      (∀ v, s.msg.read (64 * s.blk.toNat + 4 * s.t.val + 3) = some v → b3 = v) ∧
      engineStep s = .next { s with
        w := s.w.set s.t (be32 b0 b1 b2 b3), t := s.t + 1, freeCount := s.freeCount + 1 }

/-- R158: SCHED, expand form, with the recurrence written out. That `t` stays 63 in WINIT, where R41 leaves it unspecified, is
the model's choice (log 9). -/
def Obligations.ScheduleExpandStep : Prop :=
  ∀ (s : State) (x2 x7 x15 x16 : Word), s.phase = .sched → 16 ≤ s.t.val →
    s.w[s.t.val - 2]? = some x2 → s.w[s.t.val - 7]? = some x7 →
    s.w[s.t.val - 15]? = some x15 → s.w[s.t.val - 16]? = some x16 →
    engineStep s =
      if s.t.val < 63 then
        .next { s with w := s.w.set s.t (sigma1 x2 + x7 + sigma0 x15 + x16), t := s.t + 1 }
      else
        .next { s with w := s.w.set s.t (sigma1 x2 + x7 + sigma0 x15 + x16), phase := .winit }

/-- R170: WINIT. -/
def Obligations.WinitLoadsTheWorkingVariables : Prop :=
  ∀ s : State, s.phase = .winit →
    engineStep s = .next { s with
      vars := ⟨s.h[0], s.h[1], s.h[2], s.h[3], s.h[4], s.h[5], s.h[6], s.h[7]⟩, t := 0,
      phase := .round }

/-- R176 with R177: ROUND, in a build that has the constants. That `t` stays 63 in ADD, where R41 leaves it unspecified, is the
model's choice (log 9). -/
def Obligations.RoundStepIsTheRoundFunction : Prop :=
  ∀ (s : State) (t1 t2 : Word), s.phase = .round → s.cfg.kromOk = true →
    t1 = s.vars.h + bigSigma1 s.vars.e + ch s.vars.e s.vars.f s.vars.g + Config.k[s.t] + s.w[s.t] →
    t2 = bigSigma0 s.vars.a + maj s.vars.a s.vars.b s.vars.c →
    engineStep s =
      if s.t.val < 63 then
        .next { s with
          vars := ⟨t1 + t2, s.vars.a, s.vars.b, s.vars.c, s.vars.d + t1, s.vars.e, s.vars.f, s.vars.g⟩,
          t := s.t + 1 }
      else
        .next { s with
          vars := ⟨t1 + t2, s.vars.a, s.vars.b, s.vars.c, s.vars.d + t1, s.vars.e, s.vars.f, s.vars.g⟩,
          phase := .add }

/-- R178: ADD, with the end of the command it may be. That `a..h`, `W`, `t`, `p` and `OPK` keep their values at the end of the
command, where R28, R29, R41 to R43 and U2 leave them unspecified, is the model's choice (log 9). -/
def Obligations.AddStepAddsBack : Prop :=
  ∀ s : State, s.Inv → s.phase = .add →
    ∃ t, engineStep s = .next t ∧ t.blk.toNat = s.blk.toNat + 1 ∧
      t.h = #v[s.h[0] + s.vars.a, s.h[1] + s.vars.b, s.h[2] + s.vars.c, s.h[3] + s.vars.d,
               s.h[4] + s.vars.e, s.h[5] + s.vars.f, s.h[6] + s.vars.g, s.h[7] + s.vars.h] ∧
      t = (if s.opk = .digest ∧ 64 * (s.blk.toNat + 1) < s.padlen.toNat then
            { s with h := t.h, blk := t.blk, t := 0, phase := .sched }
          else
            { s with h := t.h, blk := t.blk, phase := .idle,
                     valid := if s.opk = .digest then true else s.valid })

/-! ### The functions -/

/-- R138: `z` is the least count that brings the length to 56 mod 64; `padlen` in both forms and its bounds. -/
def Obligations.PadLengthFacts : Prop :=
  ∀ L : Nat,
    (L + 1 + zeroCount L) % 64 = 56 ∧ zeroCount L ≤ 63 ∧
    (L ≤ 55 → zeroCount L = 55 - L) ∧ (55 < L → zeroCount L = (64 - (L - 55) % 64) % 64) ∧
    (∀ z, (L + 1 + z) % 64 = 56 → zeroCount L ≤ z) ∧
    padLength L = L + 1 + zeroCount L + 8 ∧ padLength L = 64 * ((L + 8) / 64 + 1) ∧
    padLength L % 64 = 0 ∧ 64 ≤ padLength L ∧ L + 9 ≤ padLength L ∧ padLength L ≤ L + 72

/-- R145 and R137: the wrap of the bit length, which raises nothing. -/
def Obligations.BitLengthWraps : Prop :=
  bitLength (2 ^ 61 - 1) = 0xFFFFFFFFFFFFFFF8 ∧ bitLength (2 ^ 61) = 0 ∧
  bitLength (2 ^ 61 + 5) = 0x28 ∧ padLength (2 ^ 61) = 2 ^ 61 + 64 ∧
  ∀ L : Nat, (bitLength L).toNat = 8 * L % 2 ^ 64 ∧
    (L < 2 ^ 61 → (bitLength L).toNat = 8 * L)

/-- R140: `pad(B)` as a concatenation, its length, and byte by byte: `pad(B)[q] = B[q]` for q < L and `padbyte(L, q)` for
q >= L. -/
def Obligations.PadIsMessageThenPadBytes : Prop :=
  ∀ B : List Byte,
    padMessage B = B ++ [0x80] ++ List.replicate (zeroCount B.length) 0x00 ++
      bytesBe64 (BitVec.ofNat 64 (8 * B.length)) ∧
    (padMessage B).length = padLength B.length ∧
    ∀ q, q < padLength B.length →
      (padMessage B)[q]? = if q < B.length then B[q]? else some (padByte B.length q)

/-- R147, items 1 to 4. -/
def Obligations.PadProperties : Prop :=
  (∀ B : List Byte,
    (padMessage B).length % 64 = 0 ∧ B.length + 9 ≤ (padMessage B).length ∧
    (padMessage B).take B.length = B ∧
    ∃ b0 b1 b2 b3 b4 b5 b6 b7,
      (padMessage B).drop ((padMessage B).length - 8) = [b0, b1, b2, b3, b4, b5, b6, b7] ∧
      (be64 b0 b1 b2 b3 b4 b5 b6 b7).toNat = 8 * B.length % 2 ^ 64) ∧
  (∀ B C : List Byte, B.length < 2 ^ 61 → C.length < 2 ^ 61 → padMessage B = padMessage C → B = C)

/-- R156: the schedule of every block meets the recurrence, word by word. -/
def Obligations.ScheduleMeetsTheRecurrence : Prop :=
  ∀ (B : Vector Byte 64) (t : Nat) (ht : t < 64),
    (∀ (h : t < 16), (schedule B)[t] = be32 B[4 * t] B[4 * t + 1] B[4 * t + 2] B[4 * t + 3]) ∧
    (16 ≤ t → (schedule B)[t] =
      sigma1 (schedule B)[t - 2] + (schedule B)[t - 7] + sigma0 (schedule B)[t - 15] +
        (schedule B)[t - 16])

/-- R205: character `8i + j` of `toHex(S)` is the lower-case digit for bits `31-4j : 28-4j` of `S[i]`; 64 characters; the
example `toHex(IV)`. -/
def Obligations.HexFormDigitByDigit : Prop :=
  (∀ S : Hash, (toHex S).toList.length = 64 ∧
    ∀ (i : Fin 8) (j : Nat), j < 8 →
      (toHex S).toList[8 * i.val + j]? =
        "0123456789abcdef".toList[S[i].toNat / 16 ^ (7 - j) % 16]?) ∧
  toHex Config.iv = "6a09e667bb67ae853c6ef372a54ff53a510e527f9b05688c1f83d9ab5be0cd19"

/-! ### Whole commands -/

/-- R161: 64 SCHED steps leave the schedule of the block in `W`, `PHASE` = WINIT, and nothing else changed; `t` has no
meaning in WINIT (R41), `freeCount` is the model's own (log 3). -/
def Obligations.SchedStepsBuildTheSchedule : Prop :=
  ∀ s : State, s.phase = .sched → s.t = 0 → 64 * s.blk.toNat + 64 ≤ s.cfg.msgCap →
    ∃ (B : Vector Byte 64) (tt : Fin 64) (fc : Nat), s.BlockIs s.blk.toNat B ∧
      engineSteps 64 s = .next { s with w := schedule B, phase := .winit, t := tt, freeCount := fc }

/-- R179: WINIT, 64 ROUND steps and ADD replace `H` by `compress(H, W)`. That `W` and `OPK` keep their values where the ADD
ends the command, and R29 and R43 leave them unspecified, is the model's choice (log 9). -/
def Obligations.RoundsAndAddBackCompress : Prop :=
  ∀ s : State, s.phase = .winit → s.cfg.kromOk = true →
    ∃ t, engineSteps 66 s = .next t ∧ t.h = compress s.h s.w ∧ t.blk = s.blk + 1 ∧
      t.w = s.w ∧ t.msg = s.msg ∧ t.len = s.len ∧ t.padlen = s.padlen ∧ t.err = s.err ∧
      t.allowEmpty = s.allowEmpty ∧ t.opk = s.opk

/-- R202 with R199: an accepted `BLOCK` takes 130 engine steps and leaves `H = compress(H, schedule(block BLK))`,
`BLK` one more, `VALID` = 0, everything else the host can see unchanged. That `p` keeps its value, where R42 and U2 leave it
unspecified, is the model's choice (log 9); `a..h`, `W`, `t` and `OPK` are left open. -/
def Obligations.BlockCommandCompressesOneBlock : Prop :=
  ∀ s : State, s.cfg.wf → s.phase = .idle → s.err = .none → s.cfg.kromOk = true →
    64 * s.blk.toNat + 64 ≤ s.cfg.msgCap →
    ∃ (s1 : State) (B : Vector Byte 64) (v : Vars) (w : Words64) (k : Opk) (tt : Fin 64) (fc : Nat),
      exec .block s = .next s1 ∧ s.BlockIs s.blk.toNat B ∧
      engineSteps blockSteps s1 = .next { s with
        h := compress s.h (schedule B), blk := BitVec.ofNat 64 (s.blk.toNat + 1), valid := false,
        phase := .idle, vars := v, w := w, opk := k, t := tt, resp := some .okay, freeCount := fc }

/-- R147 item 5 with R199 and R226: an accepted `PAD` that passes its checks takes `PADLEN - LEN` engine steps and leaves
the padding at `LEN .. PADLEN-1`, every other byte as before, `PADLEN = padlen(LEN)`, `VALID` = 0. That `a..h`, `W` and `t`
keep their values, where U2 leaves them unspecified, is the model's choice (log 9). -/
def Obligations.PadCommandPadsInPlace : Prop :=
  ∀ s : State, s.cfg.wf → s.phase = .idle → s.err = .none → s.LengthOk →
    ∃ (s1 : State) (m : Memory) (k : Opk) (q : Dword),
      exec .pad s = .next s1 ∧ s.PaddedTo s.len.toNat m ∧
      engineSteps (padLength s.len.toNat - s.len.toNat) s1 = .next { s with
        msg := m, padlen := BitVec.ofNat 64 (padLength s.len.toNat), valid := false, opk := k, p := q,
        resp := some .okay }

/-- R201 with R199: an accepted `DIGEST` that passes its checks takes `(PADLEN - LEN) + 130 * (PADLEN / 64)` engine steps
and leaves `H = digest(MSG[0 .. LEN-1])`, the padding in place, `PADLEN`, `BLK = PADLEN / 64`, `VALID` = 1. -/
def Obligations.DigestCommandComputesTheDigest : Prop :=
  ∀ s : State, s.cfg.wf → s.phase = .idle → s.err = .none → s.cfg.kromOk = true → s.LengthOk →
    ∃ (s1 : State) (M : List Byte) (m : Memory) (v : Vars) (w : Words64) (k : Opk) (tt : Fin 64)
      (q : Dword) (fc : Nat),
      exec .digest s = .next s1 ∧ s.MessageIs M ∧ s.PaddedTo s.len.toNat m ∧
      engineSteps (digestSteps s.len.toNat) s1 = .next { s with
        h := digest M, msg := m, padlen := BitVec.ofNat 64 (padLength s.len.toNat),
        blk := BitVec.ofNat 64 (padLength s.len.toNat / 64), valid := true,
        vars := v, w := w, opk := k, t := tt, p := q, resp := some .okay, freeCount := fc }

/-- R204: the result of a `DIGEST` depends only on the message and its length, not on what the instance did before: two
states with the same written message end with the same `H`. -/
def Obligations.DigestDependsOnlyOnTheMessage : Prop :=
  ∀ s u : State, s.cfg = u.cfg → s.cfg.wf → s.cfg.kromOk = true →
    s.phase = .idle → s.err = .none → s.LengthOk → s.MessageWritten →
    u.phase = .idle → u.err = .none → u.LengthOk → s.len = u.len →
    (∀ a < s.len.toNat, s.msg.read a = u.msg.read a) →
    ∃ s1 u1 t v : State, exec .digest s = .next s1 ∧ exec .digest u = .next u1 ∧
      engineSteps (digestSteps s.len.toNat) s1 = .next t ∧
      engineSteps (digestSteps s.len.toNat) u1 = .next v ∧ t.h = v.h

/-- R203: the long way, `INIT`, `PAD`, `BLK` <- 0 and a `BLOCK` for each block, leaves the same `H`, `MSG`, `PADLEN` and
`BLK` as one `DIGEST`, and differs in `VALID`. -/
def Obligations.LongWayEqualsDigest : Prop :=
  ∀ s : State, s.cfg.wf → s.cfg.kromOk = true → s.phase = .idle → s.err = .none → s.LengthOk →
    s.MessageWritten →
    ∃ t u : State,
      Host.Core.run Sys2Proof.core (longWay s.len.toNat).length
        { s with events := longWay s.len.toNat } = .next t ∧
      Host.Core.run Sys2Proof.core (shortWay s.len.toNat).length
        { s with events := shortWay s.len.toNat } = .next u ∧
      t.h = u.h ∧ t.msg = u.msg ∧ t.padlen = u.padlen ∧ t.blk = u.blk ∧
      t.valid = false ∧ u.valid = true ∧
      t.err = u.err ∧ t.len = u.len ∧ t.allowEmpty = u.allowEmpty ∧ t.cfg = u.cfg ∧
      t.phase = .idle ∧ u.phase = .idle

/-- R199, R288: every running command ends. In a state that meets the invariant `PHASE` is not IDLE for exactly
`stepsLeft` more engine steps, and then it is; an accepted `PAD`, `BLOCK` or `DIGEST` has the step counts of R199 left, a
command that is already finished has none. -/
def Obligations.EveryCommandEnds : Prop :=
  (∀ s : State, s.Inv →
    (∃ t, engineSteps s.stepsLeft s = .next t ∧ t.phase = .idle) ∧
    ∀ n, n < s.stepsLeft → ∃ t, engineSteps n s = .next t ∧ t.phase ≠ .idle) ∧
  (∀ (s t : State) (i : Instr), s.Inv → s.phase = .idle → exec i s = .next t →
    t.stepsLeft =
      if t.phase = .idle then 0
      else
        match i with
        | .pad => padLength s.len.toNat - s.len.toNat
        | .block => 130
        | .digest => (padLength s.len.toNat - s.len.toNat) + 130 * (padLength s.len.toNat / 64)
        | .nop => 0
        | .init => 0
        | .clear => 0)
end

