-- ==== Sys2Proof/Laws/Memory.lean ====
section
/-! SUPPORT. The message memory: a read gives the latest write, every operation keeps the canonical form, and equal reads
mean equal memories. -/

namespace Sys2Proof.Machine

@[simp] theorem Memory.read_nil (a : Nat) : Memory.read [] a = none := rfl

theorem Memory.read_write_same (m : Memory) (a : Nat) (v : Byte) :
    (m.write a v).read a = some v := by
  induction m with
  | nil => simp [Memory.write, Memory.read]
  | cons c m ih =>
    unfold Memory.write
    split
    · simp [Memory.read]
    · split
      · simp [Memory.read]
      · rename_i h1 h2
        have : c.1 ≠ a := fun h => h2 h.symm
        simp [Memory.read, this, ih]

theorem Memory.read_write_other (m : Memory) {a b : Nat} (v : Byte) (hab : b ≠ a) :
    (m.write a v).read b = m.read b := by
  induction m with
  | nil => simp [Memory.write, Memory.read, hab.symm]
  | cons c m ih =>
    unfold Memory.write
    split
    · simp [Memory.read, hab.symm]
    · split
      · rename_i _ h2
        have : c.1 ≠ b := fun h => hab (h.symm.trans h2.symm)
        simp [Memory.read, hab.symm, this]
      · simp [Memory.read, ih]

/-- The one read lemma: what any address reads as after a write. -/
theorem Memory.read_write (m : Memory) (a b : Nat) (v : Byte) :
    (m.write a v).read b = if b = a then some v else m.read b := by
  split
  · rename_i h; subst h; exact Memory.read_write_same m b v
  · rename_i h; exact Memory.read_write_other m v h

/-- A cell of a written memory is the new one or an old one. -/
theorem Memory.mem_write {m : Memory} {a : Nat} {v : Byte} {c : Host.Cell}
    (hc : c ∈ m.write a v) : c = (a, v) ∨ c ∈ m := by
  induction m with
  | nil => simpa [Memory.write] using hc
  | cons d m ih =>
    unfold Memory.write at hc
    split at hc
    · simpa [List.mem_cons] using hc
    · split at hc
      · rcases List.mem_cons.1 hc with h | h
        · exact .inl h
        · exact .inr (List.mem_cons_of_mem _ h)
      · rcases List.mem_cons.1 hc with h | h
        · exact .inr (h ▸ List.mem_cons_self)
        · exact (ih h).imp id (List.mem_cons_of_mem _)

/-- Every write keeps the canonical form. -/
theorem Memory.wf_write {m : Memory} (hm : m.wf) (a : Nat) (v : Byte) : (m.write a v).wf := by
  induction m with
  | nil => simp [Memory.write, Memory.wf]
  | cons c m ih =>
    obtain ⟨hc, hm'⟩ := List.pairwise_cons.1 hm
    unfold Memory.write
    split
    · rename_i h
      refine List.pairwise_cons.2 ⟨fun d hd => ?_, hm⟩
      rcases List.mem_cons.1 hd with hd | hd
      · subst hd; exact h
      · exact lt_trans h (hc d hd)
    · split
      · rename_i _ h
        exact List.pairwise_cons.2 ⟨fun d hd => h ▸ hc d hd, hm'⟩
      · rename_i h1 h2
        refine List.pairwise_cons.2 ⟨fun d hd => ?_, ih hm'⟩
        rcases Memory.mem_write hd with hd | hd
        · subst hd; change c.1 < a; omega
        · exact hc d hd

/-- An address below every listed one reads as unwritten. -/
theorem Memory.read_none_of_lt {m : Memory} {a : Nat} (h : ∀ c ∈ m, a < c.1) : m.read a = none := by
  induction m with
  | nil => rfl
  | cons c m ih =>
    have h1 := h c List.mem_cons_self
    have : c.1 ≠ a := by omega
    simp [Memory.read, this, ih fun d hd => h d (List.mem_cons_of_mem _ hd)]

/-- Canonical memories that read alike at every address are equal. -/
theorem Memory.eq_of_read_eq {m n : Memory} (hm : m.wf) (hn : n.wf)
    (h : ∀ a, m.read a = n.read a) : m = n := by
  induction m generalizing n with
  | nil =>
    cases n with
    | nil => rfl
    | cons d n => simpa [Memory.read] using h d.1
  | cons c m ih =>
    obtain ⟨hc, hm'⟩ := List.pairwise_cons.1 hm
    cases n with
    | nil => simpa [Memory.read] using h c.1
    | cons d n =>
      obtain ⟨hd, hn'⟩ := List.pairwise_cons.1 hn
      have hcd : c.1 = d.1 := by
        rcases lt_trichotomy c.1 d.1 with hlt | heq | hgt
        · have h1 := h c.1
          rw [Memory.read_none_of_lt (m := d :: n) (a := c.1)] at h1
          · simp [Memory.read] at h1
          · intro x hx
            rcases List.mem_cons.1 hx with hx | hx
            · exact hx ▸ hlt
            · exact lt_trans hlt (hd x hx)
        · exact heq
        · have h1 := h d.1
          rw [Memory.read_none_of_lt (m := c :: m) (a := d.1)] at h1
          · simp [Memory.read] at h1
          · intro x hx
            rcases List.mem_cons.1 hx with hx | hx
            · exact hx ▸ hgt
            · exact lt_trans hgt (hc x hx)
      have hval : c = d := by
        have h1 := h c.1
        simp only [Memory.read, hcd, if_true, Option.some.injEq] at h1
        exact Prod.ext hcd h1
      subst hval
      refine congrArg (c :: ·) (ih hm' hn' fun a => ?_)
      by_cases ha : c.1 = a
      · subst ha
        rw [Memory.read_none_of_lt hc, Memory.read_none_of_lt hd]
      · simpa [Memory.read, ha] using h a

/-- A written byte is what `MSG[a]` reads as. -/
theorem State.msgByte_of_read {s : State} {a : Nat} {v : Byte} (h : s.msg.read a = some v) :
    s.msgByte a = v := by simp [State.msgByte, h]

end Sys2Proof.Machine
end

