-- ==== Sys2Proof/Laws/State.lean ====
section
/-! SUPPORT. One lemma per field per update of `State`, so that no proof unfolds a record update. -/

namespace Sys2Proof.Machine

@[simp] theorem State.writeMsg_cfg (s : State) (a : Nat) (v : Byte) : (s.writeMsg a v).cfg = s.cfg := rfl
@[simp] theorem State.writeMsg_h (s : State) (a : Nat) (v : Byte) : (s.writeMsg a v).h = s.h := rfl
@[simp] theorem State.writeMsg_vars (s : State) (a : Nat) (v : Byte) : (s.writeMsg a v).vars = s.vars := rfl
@[simp] theorem State.writeMsg_w (s : State) (a : Nat) (v : Byte) : (s.writeMsg a v).w = s.w := rfl
@[simp] theorem State.writeMsg_msg (s : State) (a : Nat) (v : Byte) : (s.writeMsg a v).msg = s.msg.write a v := rfl
@[simp] theorem State.writeMsg_allowEmpty (s : State) (a : Nat) (v : Byte) : (s.writeMsg a v).allowEmpty = s.allowEmpty := rfl
@[simp] theorem State.writeMsg_len (s : State) (a : Nat) (v : Byte) : (s.writeMsg a v).len = s.len := rfl
@[simp] theorem State.writeMsg_padlen (s : State) (a : Nat) (v : Byte) : (s.writeMsg a v).padlen = s.padlen := rfl
@[simp] theorem State.writeMsg_blk (s : State) (a : Nat) (v : Byte) : (s.writeMsg a v).blk = s.blk := rfl
@[simp] theorem State.writeMsg_valid (s : State) (a : Nat) (v : Byte) : (s.writeMsg a v).valid = s.valid := rfl
@[simp] theorem State.writeMsg_err (s : State) (a : Nat) (v : Byte) : (s.writeMsg a v).err = s.err := rfl
@[simp] theorem State.writeMsg_phase (s : State) (a : Nat) (v : Byte) : (s.writeMsg a v).phase = s.phase := rfl
@[simp] theorem State.writeMsg_opk (s : State) (a : Nat) (v : Byte) : (s.writeMsg a v).opk = s.opk := rfl
@[simp] theorem State.writeMsg_t (s : State) (a : Nat) (v : Byte) : (s.writeMsg a v).t = s.t := rfl
@[simp] theorem State.writeMsg_p (s : State) (a : Nat) (v : Byte) : (s.writeMsg a v).p = s.p := rfl
@[simp] theorem State.writeMsg_events (s : State) (a : Nat) (v : Byte) : (s.writeMsg a v).events = s.events := rfl
@[simp] theorem State.writeMsg_resp (s : State) (a : Nat) (v : Byte) : (s.writeMsg a v).resp = s.resp := rfl
@[simp] theorem State.writeMsg_freeCount (s : State) (a : Nat) (v : Byte) : (s.writeMsg a v).freeCount = s.freeCount := rfl

@[simp] theorem State.countRead_cfg (s : State) : (s.countRead).cfg = s.cfg := rfl
@[simp] theorem State.countRead_h (s : State) : (s.countRead).h = s.h := rfl
@[simp] theorem State.countRead_vars (s : State) : (s.countRead).vars = s.vars := rfl
@[simp] theorem State.countRead_w (s : State) : (s.countRead).w = s.w := rfl
@[simp] theorem State.countRead_msg (s : State) : (s.countRead).msg = s.msg := rfl
@[simp] theorem State.countRead_allowEmpty (s : State) : (s.countRead).allowEmpty = s.allowEmpty := rfl
@[simp] theorem State.countRead_len (s : State) : (s.countRead).len = s.len := rfl
@[simp] theorem State.countRead_padlen (s : State) : (s.countRead).padlen = s.padlen := rfl
@[simp] theorem State.countRead_blk (s : State) : (s.countRead).blk = s.blk := rfl
@[simp] theorem State.countRead_valid (s : State) : (s.countRead).valid = s.valid := rfl
@[simp] theorem State.countRead_err (s : State) : (s.countRead).err = s.err := rfl
@[simp] theorem State.countRead_phase (s : State) : (s.countRead).phase = s.phase := rfl
@[simp] theorem State.countRead_opk (s : State) : (s.countRead).opk = s.opk := rfl
@[simp] theorem State.countRead_t (s : State) : (s.countRead).t = s.t := rfl
@[simp] theorem State.countRead_p (s : State) : (s.countRead).p = s.p := rfl
@[simp] theorem State.countRead_events (s : State) : (s.countRead).events = s.events := rfl
@[simp] theorem State.countRead_resp (s : State) : (s.countRead).resp = s.resp := rfl
@[simp] theorem State.countRead_freeCount (s : State) : (s.countRead).freeCount = s.freeCount + 1 := rfl

@[simp] theorem State.respond_cfg (s : State) (r : Response) : (s.respond r).cfg = s.cfg := rfl
@[simp] theorem State.respond_h (s : State) (r : Response) : (s.respond r).h = s.h := rfl
@[simp] theorem State.respond_vars (s : State) (r : Response) : (s.respond r).vars = s.vars := rfl
@[simp] theorem State.respond_w (s : State) (r : Response) : (s.respond r).w = s.w := rfl
@[simp] theorem State.respond_msg (s : State) (r : Response) : (s.respond r).msg = s.msg := rfl
@[simp] theorem State.respond_allowEmpty (s : State) (r : Response) : (s.respond r).allowEmpty = s.allowEmpty := rfl
@[simp] theorem State.respond_len (s : State) (r : Response) : (s.respond r).len = s.len := rfl
@[simp] theorem State.respond_padlen (s : State) (r : Response) : (s.respond r).padlen = s.padlen := rfl
@[simp] theorem State.respond_blk (s : State) (r : Response) : (s.respond r).blk = s.blk := rfl
@[simp] theorem State.respond_valid (s : State) (r : Response) : (s.respond r).valid = s.valid := rfl
@[simp] theorem State.respond_err (s : State) (r : Response) : (s.respond r).err = s.err := rfl
@[simp] theorem State.respond_phase (s : State) (r : Response) : (s.respond r).phase = s.phase := rfl
@[simp] theorem State.respond_opk (s : State) (r : Response) : (s.respond r).opk = s.opk := rfl
@[simp] theorem State.respond_t (s : State) (r : Response) : (s.respond r).t = s.t := rfl
@[simp] theorem State.respond_p (s : State) (r : Response) : (s.respond r).p = s.p := rfl
@[simp] theorem State.respond_events (s : State) (r : Response) : (s.respond r).events = s.events := rfl
@[simp] theorem State.respond_resp (s : State) (r : Response) : (s.respond r).resp = some r := rfl
@[simp] theorem State.respond_freeCount (s : State) (r : Response) : (s.respond r).freeCount = s.freeCount := rfl

@[simp] theorem State.reject_cfg (s : State) : (s.reject).cfg = s.cfg := rfl
@[simp] theorem State.reject_h (s : State) : (s.reject).h = s.h := rfl
@[simp] theorem State.reject_vars (s : State) : (s.reject).vars = s.vars := rfl
@[simp] theorem State.reject_w (s : State) : (s.reject).w = s.w := rfl
@[simp] theorem State.reject_msg (s : State) : (s.reject).msg = s.msg := rfl
@[simp] theorem State.reject_allowEmpty (s : State) : (s.reject).allowEmpty = s.allowEmpty := rfl
@[simp] theorem State.reject_len (s : State) : (s.reject).len = s.len := rfl
@[simp] theorem State.reject_padlen (s : State) : (s.reject).padlen = s.padlen := rfl
@[simp] theorem State.reject_blk (s : State) : (s.reject).blk = s.blk := rfl
@[simp] theorem State.reject_valid (s : State) : (s.reject).valid = s.valid := rfl
@[simp] theorem State.reject_err (s : State) : (s.reject).err = s.err := rfl
@[simp] theorem State.reject_phase (s : State) : (s.reject).phase = s.phase := rfl
@[simp] theorem State.reject_opk (s : State) : (s.reject).opk = s.opk := rfl
@[simp] theorem State.reject_t (s : State) : (s.reject).t = s.t := rfl
@[simp] theorem State.reject_p (s : State) : (s.reject).p = s.p := rfl
@[simp] theorem State.reject_events (s : State) : (s.reject).events = s.events := rfl
@[simp] theorem State.reject_resp (s : State) : (s.reject).resp = some .error := rfl
@[simp] theorem State.reject_freeCount (s : State) : (s.reject).freeCount = s.freeCount := rfl

@[simp] theorem State.raise_cfg (s : State) (e : Err) : (s.raise e).cfg = s.cfg := rfl
@[simp] theorem State.raise_h (s : State) (e : Err) : (s.raise e).h = s.h := rfl
@[simp] theorem State.raise_vars (s : State) (e : Err) : (s.raise e).vars = s.vars := rfl
@[simp] theorem State.raise_w (s : State) (e : Err) : (s.raise e).w = s.w := rfl
@[simp] theorem State.raise_msg (s : State) (e : Err) : (s.raise e).msg = s.msg := rfl
@[simp] theorem State.raise_allowEmpty (s : State) (e : Err) : (s.raise e).allowEmpty = s.allowEmpty := rfl
@[simp] theorem State.raise_len (s : State) (e : Err) : (s.raise e).len = s.len := rfl
@[simp] theorem State.raise_padlen (s : State) (e : Err) : (s.raise e).padlen = s.padlen := rfl
@[simp] theorem State.raise_blk (s : State) (e : Err) : (s.raise e).blk = s.blk := rfl
@[simp] theorem State.raise_valid (s : State) (e : Err) : (s.raise e).valid = false := rfl
@[simp] theorem State.raise_err (s : State) (e : Err) : (s.raise e).err = e := rfl
@[simp] theorem State.raise_phase (s : State) (e : Err) : (s.raise e).phase = s.phase := rfl
@[simp] theorem State.raise_opk (s : State) (e : Err) : (s.raise e).opk = s.opk := rfl
@[simp] theorem State.raise_t (s : State) (e : Err) : (s.raise e).t = s.t := rfl
@[simp] theorem State.raise_p (s : State) (e : Err) : (s.raise e).p = s.p := rfl
@[simp] theorem State.raise_events (s : State) (e : Err) : (s.raise e).events = s.events := rfl
@[simp] theorem State.raise_resp (s : State) (e : Err) : (s.raise e).resp = s.resp := rfl
@[simp] theorem State.raise_freeCount (s : State) (e : Err) : (s.raise e).freeCount = s.freeCount := rfl

@[simp] theorem State.clearError_cfg (s : State) : (s.clearError).cfg = s.cfg := rfl
@[simp] theorem State.clearError_h (s : State) : (s.clearError).h = s.h := rfl
@[simp] theorem State.clearError_vars (s : State) : (s.clearError).vars = s.vars := rfl
@[simp] theorem State.clearError_w (s : State) : (s.clearError).w = s.w := rfl
@[simp] theorem State.clearError_msg (s : State) : (s.clearError).msg = s.msg := rfl
@[simp] theorem State.clearError_allowEmpty (s : State) : (s.clearError).allowEmpty = s.allowEmpty := rfl
@[simp] theorem State.clearError_len (s : State) : (s.clearError).len = s.len := rfl
@[simp] theorem State.clearError_padlen (s : State) : (s.clearError).padlen = s.padlen := rfl
@[simp] theorem State.clearError_blk (s : State) : (s.clearError).blk = s.blk := rfl
@[simp] theorem State.clearError_valid (s : State) : (s.clearError).valid = false := rfl
@[simp] theorem State.clearError_err (s : State) : (s.clearError).err = .none := rfl
@[simp] theorem State.clearError_phase (s : State) : (s.clearError).phase = s.phase := rfl
@[simp] theorem State.clearError_opk (s : State) : (s.clearError).opk = s.opk := rfl
@[simp] theorem State.clearError_t (s : State) : (s.clearError).t = s.t := rfl
@[simp] theorem State.clearError_p (s : State) : (s.clearError).p = s.p := rfl
@[simp] theorem State.clearError_events (s : State) : (s.clearError).events = s.events := rfl
@[simp] theorem State.clearError_resp (s : State) : (s.clearError).resp = s.resp := rfl
@[simp] theorem State.clearError_freeCount (s : State) : (s.clearError).freeCount = s.freeCount := rfl

@[simp] theorem State.clearResult_cfg (s : State) : (s.clearResult).cfg = s.cfg := rfl
@[simp] theorem State.clearResult_h (s : State) : (s.clearResult).h = s.h := rfl
@[simp] theorem State.clearResult_vars (s : State) : (s.clearResult).vars = s.vars := rfl
@[simp] theorem State.clearResult_w (s : State) : (s.clearResult).w = s.w := rfl
@[simp] theorem State.clearResult_msg (s : State) : (s.clearResult).msg = s.msg := rfl
@[simp] theorem State.clearResult_allowEmpty (s : State) : (s.clearResult).allowEmpty = s.allowEmpty := rfl
@[simp] theorem State.clearResult_len (s : State) : (s.clearResult).len = s.len := rfl
@[simp] theorem State.clearResult_padlen (s : State) : (s.clearResult).padlen = 0 := rfl
@[simp] theorem State.clearResult_blk (s : State) : (s.clearResult).blk = s.blk := rfl
@[simp] theorem State.clearResult_valid (s : State) : (s.clearResult).valid = false := rfl
@[simp] theorem State.clearResult_err (s : State) : (s.clearResult).err = s.err := rfl
@[simp] theorem State.clearResult_phase (s : State) : (s.clearResult).phase = s.phase := rfl
@[simp] theorem State.clearResult_opk (s : State) : (s.clearResult).opk = s.opk := rfl
@[simp] theorem State.clearResult_t (s : State) : (s.clearResult).t = s.t := rfl
@[simp] theorem State.clearResult_p (s : State) : (s.clearResult).p = s.p := rfl
@[simp] theorem State.clearResult_events (s : State) : (s.clearResult).events = s.events := rfl
@[simp] theorem State.clearResult_resp (s : State) : (s.clearResult).resp = s.resp := rfl
@[simp] theorem State.clearResult_freeCount (s : State) : (s.clearResult).freeCount = s.freeCount := rfl

@[simp] theorem State.startPad_cfg (s : State) (k : Opk) : (s.startPad k).cfg = s.cfg := rfl
@[simp] theorem State.startPad_h (s : State) (k : Opk) : (s.startPad k).h = s.h := rfl
@[simp] theorem State.startPad_vars (s : State) (k : Opk) : (s.startPad k).vars = s.vars := rfl
@[simp] theorem State.startPad_w (s : State) (k : Opk) : (s.startPad k).w = s.w := rfl
@[simp] theorem State.startPad_msg (s : State) (k : Opk) : (s.startPad k).msg = s.msg := rfl
@[simp] theorem State.startPad_allowEmpty (s : State) (k : Opk) : (s.startPad k).allowEmpty = s.allowEmpty := rfl
@[simp] theorem State.startPad_len (s : State) (k : Opk) : (s.startPad k).len = s.len := rfl
@[simp] theorem State.startPad_padlen (s : State) (k : Opk) : (s.startPad k).padlen = BitVec.ofNat 64 (padLength s.len.toNat) := rfl
@[simp] theorem State.startPad_blk (s : State) (k : Opk) : (s.startPad k).blk = s.blk := rfl
@[simp] theorem State.startPad_valid (s : State) (k : Opk) : (s.startPad k).valid = s.valid := rfl
@[simp] theorem State.startPad_err (s : State) (k : Opk) : (s.startPad k).err = s.err := rfl
@[simp] theorem State.startPad_phase (s : State) (k : Opk) : (s.startPad k).phase = .pad := rfl
@[simp] theorem State.startPad_opk (s : State) (k : Opk) : (s.startPad k).opk = k := rfl
@[simp] theorem State.startPad_t (s : State) (k : Opk) : (s.startPad k).t = s.t := rfl
@[simp] theorem State.startPad_p (s : State) (k : Opk) : (s.startPad k).p = s.len := rfl
@[simp] theorem State.startPad_events (s : State) (k : Opk) : (s.startPad k).events = s.events := rfl
@[simp] theorem State.startPad_resp (s : State) (k : Opk) : (s.startPad k).resp = s.resp := rfl
@[simp] theorem State.startPad_freeCount (s : State) (k : Opk) : (s.startPad k).freeCount = s.freeCount := rfl

@[simp] theorem State.resetEvent_cfg (s : State) : (s.resetEvent).cfg = s.cfg := rfl
@[simp] theorem State.resetEvent_h (s : State) : (s.resetEvent).h = Config.iv := rfl
@[simp] theorem State.resetEvent_vars (s : State) : (s.resetEvent).vars = ⟨0, 0, 0, 0, 0, 0, 0, 0⟩ := rfl
@[simp] theorem State.resetEvent_w (s : State) : (s.resetEvent).w = Vector.replicate 64 0 := rfl
@[simp] theorem State.resetEvent_msg (s : State) : (s.resetEvent).msg = [] := rfl
@[simp] theorem State.resetEvent_allowEmpty (s : State) : (s.resetEvent).allowEmpty = false := rfl
@[simp] theorem State.resetEvent_len (s : State) : (s.resetEvent).len = 0 := rfl
@[simp] theorem State.resetEvent_padlen (s : State) : (s.resetEvent).padlen = 0 := rfl
@[simp] theorem State.resetEvent_blk (s : State) : (s.resetEvent).blk = 0 := rfl
@[simp] theorem State.resetEvent_valid (s : State) : (s.resetEvent).valid = false := rfl
@[simp] theorem State.resetEvent_err (s : State) : (s.resetEvent).err = (if s.cfg.kromOk then .none else .const) := rfl
@[simp] theorem State.resetEvent_phase (s : State) : (s.resetEvent).phase = .idle := rfl
@[simp] theorem State.resetEvent_opk (s : State) : (s.resetEvent).opk = .pad := rfl
@[simp] theorem State.resetEvent_t (s : State) : (s.resetEvent).t = 0 := rfl
@[simp] theorem State.resetEvent_p (s : State) : (s.resetEvent).p = 0 := rfl
@[simp] theorem State.resetEvent_events (s : State) : (s.resetEvent).events = s.events := rfl
@[simp] theorem State.resetEvent_resp (s : State) : (s.resetEvent).resp = s.resp := rfl
@[simp] theorem State.resetEvent_freeCount (s : State) : (s.resetEvent).freeCount = s.freeCount := rfl

/-- The last byte of a padding changes `PHASE` and `t` only. -/
@[simp] theorem State.padDone_cfg (s : State) : s.padDone.cfg = s.cfg := by
  unfold State.padDone; split <;> rfl
@[simp] theorem State.padDone_h (s : State) : s.padDone.h = s.h := by
  unfold State.padDone; split <;> rfl
@[simp] theorem State.padDone_vars (s : State) : s.padDone.vars = s.vars := by
  unfold State.padDone; split <;> rfl
@[simp] theorem State.padDone_w (s : State) : s.padDone.w = s.w := by
  unfold State.padDone; split <;> rfl
@[simp] theorem State.padDone_msg (s : State) : s.padDone.msg = s.msg := by
  unfold State.padDone; split <;> rfl
@[simp] theorem State.padDone_allowEmpty (s : State) : s.padDone.allowEmpty = s.allowEmpty := by
  unfold State.padDone; split <;> rfl
@[simp] theorem State.padDone_len (s : State) : s.padDone.len = s.len := by
  unfold State.padDone; split <;> rfl
@[simp] theorem State.padDone_padlen (s : State) : s.padDone.padlen = s.padlen := by
  unfold State.padDone; split <;> rfl
@[simp] theorem State.padDone_blk (s : State) : s.padDone.blk = s.blk := by
  unfold State.padDone; split <;> rfl
@[simp] theorem State.padDone_valid (s : State) : s.padDone.valid = s.valid := by
  unfold State.padDone; split <;> rfl
@[simp] theorem State.padDone_err (s : State) : s.padDone.err = s.err := by
  unfold State.padDone; split <;> rfl
@[simp] theorem State.padDone_opk (s : State) : s.padDone.opk = s.opk := by
  unfold State.padDone; split <;> rfl
@[simp] theorem State.padDone_p (s : State) : s.padDone.p = s.p := by
  unfold State.padDone; split <;> rfl
@[simp] theorem State.padDone_events (s : State) : s.padDone.events = s.events := by
  unfold State.padDone; split <;> rfl
@[simp] theorem State.padDone_resp (s : State) : s.padDone.resp = s.resp := by
  unfold State.padDone; split <;> rfl
@[simp] theorem State.padDone_freeCount (s : State) : s.padDone.freeCount = s.freeCount := by
  unfold State.padDone; split <;> rfl

theorem State.padDone_phase (s : State) :
    s.padDone.phase = if s.opk = .pad then .idle else .sched := by
  unfold State.padDone; split <;> simp [*]

end Sys2Proof.Machine
end

