-- ==== Sys2Proof/Laws/Ops.lean ====
section
/-! SUPPORT. Once and for all what each shared operation can do when it answers a next state. -/

namespace Sys2Proof.Machine

@[simp] theorem Outcome_next_inj {s t : State} :
    (Host.Outcome.next s : Host.Outcome State Fault Refusal) = .next t ↔ s = t :=
  ⟨fun h => by injection h, fun h => congrArg _ h⟩

theorem State.idle_iff {s : State} : s.idle = true ↔ s.phase = .idle := by simp [State.idle]

theorem State.busy_iff {s : State} : s.busy = true ↔ s.phase ≠ .idle := by simp [State.busy]

theorem State.busy_eq_false_iff {s : State} : s.busy = false ↔ s.phase = .idle := by simp [State.busy]

theorem State.ready_iff {s : State} : s.ready = true ↔ s.phase = .idle ∧ s.err = .none := by
  simp [State.ready, State.idle]

/-- A command procedure always answers a next state: the effect with OKAY, or the rejection. -/
theorem State.command_next {s t : State} {ok : Bool} {f : State → State} :
    s.command ok f = .next t ↔
      (ok = true ∧ t = (f s).respond .okay) ∨ (ok = false ∧ t = s.reject) := by
  cases ok <;> simp [State.command, eq_comm]

@[simp] theorem State.command_true (s : State) (f : State → State) :
    s.command true f = .next ((f s).respond .okay) := rfl

@[simp] theorem State.command_false (s : State) (f : State → State) :
    s.command false f = .next s.reject := rfl

/-- `exec` answers a next state for every command in every state: its effect with OKAY, or the rejection. -/
theorem exec_cases {i : Instr} {s t : State} (h : exec i s = .next t) :
    t = s.reject ∨
    (s.phase = .idle ∧
      ((i = .nop ∧ t = s.respond .okay) ∨
       (i = .clear ∧ t = s.clearError.respond .okay) ∨
       (s.err = .none ∧
         ((i = .init ∧ t = { s with valid := false, h := Config.iv }.respond .okay) ∨
          (i = .pad ∧ t = s.padCommand.respond .okay) ∨
          (i = .block ∧ s.blockInMsg = true ∧ t = s.blockCommand.respond .okay) ∨
          (i = .digest ∧ t = s.digestCommand.respond .okay))))) := by
  cases i <;>
    simp only [exec, execNop, execInit, execPad, execBlock, execDigest, execClear,
      State.command_next, Bool.and_eq_true, State.ready_iff, State.idle_iff] at h <;>
    rcases h with ⟨h, rfl⟩ | ⟨-, rfl⟩ <;> simp_all

/-- What `PAD` does at acceptance, by its three cases (R226). -/
theorem State.padCommand_cases (s : State) :
    (s.padCommand = { s with valid := false, padlen := 0, err := .empty } ∧
      s.len = 0 ∧ s.allowEmpty = false) ∨
    (s.padCommand = { s with valid := false, padlen := 0, err := .alloc } ∧
      ¬ (s.len = 0 ∧ s.allowEmpty = false) ∧ s.cfg.msgCap < padLength s.len.toNat) ∨
    (s.padCommand = { s with
        valid := false, padlen := BitVec.ofNat 64 (padLength s.len.toNat), p := s.len, opk := .pad,
        phase := .pad } ∧
      ¬ (s.len = 0 ∧ s.allowEmpty = false) ∧ padLength s.len.toNat ≤ s.cfg.msgCap) := by
  unfold State.padCommand
  split <;> rename_i h1
  · exact .inl ⟨rfl, by simpa [State.emptyRefused] using h1⟩
  · have h1' : ¬ (s.len = 0 ∧ s.allowEmpty = false) := by simpa [State.emptyRefused] using h1
    split <;> rename_i h2
    · exact .inr (.inl ⟨rfl, h1', by simpa [State.doesNotFit] using h2⟩)
    · exact .inr (.inr ⟨rfl, h1', by simpa [State.doesNotFit] using h2⟩)

/-- What `BLOCK` does at acceptance, by its two cases (R225). -/
theorem State.blockCommand_cases (s : State) :
    (s.blockCommand = { s with valid := false, err := .const } ∧ s.cfg.kromOk = false) ∨
    (s.blockCommand = { s with valid := false, t := 0, opk := .block, phase := .sched } ∧
      s.cfg.kromOk = true) := by
  unfold State.blockCommand
  split <;> rename_i h
  · exact .inr ⟨rfl, h⟩
  · exact .inl ⟨rfl, by simpa using h⟩

/-- What `DIGEST` does at acceptance, by its four cases (R227). -/
theorem State.digestCommand_cases (s : State) :
    (s.digestCommand = { s with valid := false, padlen := 0, err := .const } ∧
      s.cfg.kromOk = false) ∨
    (s.cfg.kromOk = true ∧
      ((s.digestCommand = { s with valid := false, padlen := 0, err := .empty } ∧
          s.len = 0 ∧ s.allowEmpty = false) ∨
       (s.digestCommand = { s with valid := false, padlen := 0, err := .alloc } ∧
          ¬ (s.len = 0 ∧ s.allowEmpty = false) ∧ s.cfg.msgCap < padLength s.len.toNat) ∨
       (s.digestCommand = { s with
            valid := false, h := Config.iv, blk := 0,
            padlen := BitVec.ofNat 64 (padLength s.len.toNat), p := s.len, opk := .digest,
            phase := .pad } ∧
          ¬ (s.len = 0 ∧ s.allowEmpty = false) ∧ padLength s.len.toNat ≤ s.cfg.msgCap))) := by
  unfold State.digestCommand
  split <;> rename_i h0
  · exact .inl ⟨rfl, by simpa using h0⟩
  · have h0' : s.cfg.kromOk = true := by simpa using h0
    split <;> rename_i h1
    · exact .inr ⟨h0', .inl ⟨rfl, by simpa [State.emptyRefused] using h1⟩⟩
    · have h1' : ¬ (s.len = 0 ∧ s.allowEmpty = false) := by simpa [State.emptyRefused] using h1
      split <;> rename_i h2
      · exact .inr ⟨h0', .inr (.inl ⟨rfl, h1', by simpa [State.doesNotFit] using h2⟩)⟩
      · exact .inr ⟨h0', .inr (.inr ⟨rfl, h1', by simpa [State.doesNotFit] using h2⟩)⟩

/-- `exec` never stops. -/
theorem exec_completes (i : Instr) (s : State) : ∃ t, exec i s = .next t := by
  cases i <;> simp only [exec, execNop, execInit, execPad, execBlock, execDigest, execClear, State.command] <;>
    split <;> exact ⟨_, rfl⟩

/-- What PADBYTE does when it answers a next state. -/
theorem padByteStep_cases {s t : State} (h : padByteStep s = .next t) :
    s.len.toNat ≤ s.p.toNat ∧ s.p.toNat < padLength s.len.toNat ∧ s.opk ≠ .block ∧
    s.p.toNat < s.cfg.msgCap ∧
    ((s.p.toNat + 1 < s.padlen.toNat ∧
        t = { s.writeMsg s.p.toNat (padByte s.len.toNat s.p.toNat) with p := s.p + 1 }) ∨
     (¬ s.p.toNat + 1 < s.padlen.toNat ∧
        t = (s.writeMsg s.p.toNat (padByte s.len.toNat s.p.toNat)).padDone)) := by
  unfold padByteStep at h
  split at h
  · cases h
  · rename_i h1
    push Not at h1
    split at h
    · cases h
    · rename_i h2
      split at h <;> rename_i h3 <;> cases h
      · exact ⟨h1.1.1, h1.1.2, h1.2, by omega, .inl ⟨h3, rfl⟩⟩
      · exact ⟨h1.1.1, h1.1.2, h1.2, by omega, .inr ⟨h3, rfl⟩⟩

/-- What SCHED does when it answers a next state. -/
theorem schedStep_cases {s t : State} (h : schedStep s = .next t) :
    (s.t.val ≤ 15 ∧ s.loadAddress + 4 ≤ s.cfg.msgCap ∧
        t = { s.countRead with w := s.w.set s.t s.loadWord, t := s.t + 1 }) ∨
    (15 < s.t.val ∧ s.t.val < 63 ∧
        t = { s with w := s.w.set s.t (expandWord s.w s.t), t := s.t + 1 }) ∨
    (s.t.val = 63 ∧ t = { s with w := s.w.set s.t (expandWord s.w s.t), phase := .winit }) := by
  unfold schedStep schedLoadStep schedExpandStep at h
  have h63 := s.t.isLt
  split at h
  · split at h
    · cases h
    · cases h; exact .inl ⟨by omega, by omega, rfl⟩
  · split at h
    · cases h; exact .inr (.inl ⟨by omega, by omega, rfl⟩)
    · cases h; exact .inr (.inr ⟨by omega, rfl⟩)

/-- What WINIT does. -/
theorem winitStep_cases {s t : State} (h : winitStep s = .next t) :
    t = { s with vars := Vars.ofHash s.h, t := 0, phase := .round } := by
  simpa [winitStep, eq_comm] using h

/-- What ROUND does. -/
theorem roundStep_cases {s t : State} (h : roundStep s = .next t) :
    (s.t.val < 63 ∧
        t = { s with vars := roundFn s.vars (romRead s.cfg s.t) s.w[s.t], t := s.t + 1 }) ∨
    (s.t.val = 63 ∧
        t = { s with vars := roundFn s.vars (romRead s.cfg s.t) s.w[s.t], phase := .add }) := by
  unfold roundStep at h
  have h63 := s.t.isLt
  split at h <;> cases h
  · exact .inl ⟨by omega, rfl⟩
  · exact .inr ⟨by omega, rfl⟩

/-- What ADD does. -/
theorem addStep_cases {s t : State} (h : addStep s = .next t) :
    (s.opk = .digest ∧ 64 * (s.blk + 1).toNat < s.padlen.toNat ∧
        t = { s with h := addBack s.h s.vars, blk := s.blk + 1, t := 0, phase := .sched }) ∨
    (¬ (s.opk = .digest ∧ 64 * (s.blk + 1).toNat < s.padlen.toNat) ∧
        t = { s with h := addBack s.h s.vars, blk := s.blk + 1, phase := .idle,
                     valid := s.valid || s.opk == .digest }) := by
  unfold addStep at h
  split at h <;> rename_i h1 <;> cases h <;>
    simp only [State.blocksRemain, Bool.and_eq_true, beq_iff_eq, decide_eq_true_eq] at h1
  · exact .inl ⟨h1.1, h1.2, rfl⟩
  · exact .inr ⟨h1, rfl⟩

/-- The engine step is the one that `PHASE` selects. -/
theorem engineStep_cases {s t : State} (h : engineStep s = .next t) :
    (s.phase = .idle ∧ t = s) ∨ (s.phase = .pad ∧ padByteStep s = .next t) ∨
    (s.phase = .sched ∧ schedStep s = .next t) ∨ (s.phase = .winit ∧ winitStep s = .next t) ∨
    (s.phase = .round ∧ roundStep s = .next t) ∨ (s.phase = .add ∧ addStep s = .next t) := by
  unfold engineStep at h
  split at h <;> simp_all

/-- The engine never refuses. -/
theorem engineStep_not_refused (s : State) (r : Refusal) : engineStep s ≠ .refused r := by
  unfold engineStep padByteStep schedStep schedLoadStep schedExpandStep winitStep roundStep addStep
  repeat' split
  all_goals simp

@[simp] theorem engineSteps_zero (s : State) : engineSteps 0 s = .next s := rfl

/-- One more engine step at the front. -/
theorem engineSteps_succ {s s' : State} (n : Nat) (h : engineStep s = .next s') :
    engineSteps (n + 1) s = engineSteps n s' := by simp [engineSteps, h]

/-- Engine runs compose. -/
theorem engineSteps_add {s s' : State} {m : Nat} (n : Nat) (h : engineSteps m s = .next s') :
    engineSteps (m + n) s = engineSteps n s' := by
  induction m generalizing s with
  | zero => cases h; simp
  | succ m ih =>
    rw [Nat.succ_add_eq_add_succ, Nat.add_succ]
    cases he : engineStep s with
    | next u =>
      rw [engineSteps_succ m he] at h
      rw [engineSteps_succ _ he]
      exact ih h
    | fault f => simp [engineSteps, he] at h
    | refused r => simp [engineSteps, he] at h

end Sys2Proof.Machine
end

