-- ==== Sys2Proof/Laws/PerInstr.lean ====
section
/-! SUPPORT. Statements made per instruction: `TableEncoding` says that a command's word is its row of the opcode table
(spec/30_encoding.md R112). -/

namespace Sys2Proof.Laws.TableEncoding

/-- The word of a command has `ZERO` = 0, its `OP` is at most 5 (R101), and the table's only row for it is an exact match. -/
def Statement (i : Instr) : Prop :=
  zeroField (encode i) = 0 ∧ opField (encode i) = opOf i ∧ (opOf i).toNat ≤ 5 ∧
    tableLookup (encode i) = some i ∧ (⟨0xFFFFFFFF, encode i, i⟩ : TableRow) ∈ opcodeTable

theorem nop : Statement .nop := by unfold Statement; decide
theorem init : Statement .init := by unfold Statement; decide
theorem pad : Statement .pad := by unfold Statement; decide
theorem block : Statement .block := by unfold Statement; decide
theorem digest : Statement .digest := by unfold Statement; decide
theorem clear : Statement .clear := by unfold Statement; decide

end Sys2Proof.Laws.TableEncoding
end

