-- ==== Sys2Proof/Laws/Prim.lean ====
section
/-! SUPPORT. The bit-field primitives as natural numbers: appending, the halves of a 64-bit register, the fields of a command
word, the status word. -/

namespace Sys2Proof.Machine

theorem append_toNat {w v : Nat} (x : BitVec w) (y : BitVec v) :
    (x ++ y).toNat = x.toNat * 2 ^ v + y.toNat := by
  rw [BitVec.toNat_append, Nat.shiftLeft_eq, mul_comm, Nat.two_pow_add_eq_or_of_lt y.isLt]

theorem lowHalf_toNat (d : Dword) : (lowHalf d).toNat = d.toNat % 2 ^ 32 := by
  simp [lowHalf, BitVec.extractLsb'_toNat]

theorem highHalf_toNat (d : Dword) : (highHalf d).toNat = d.toNat / 2 ^ 32 := by
  have := d.isLt
  simp only [highHalf, BitVec.extractLsb'_toNat, Nat.shiftRight_eq_div_pow]
  omega

theorem setLowHalf_toNat (d : Dword) (v : Word) :
    (setLowHalf d v).toNat = d.toNat / 2 ^ 32 * 2 ^ 32 + v.toNat := by
  rw [setLowHalf, append_toNat, highHalf_toNat]

theorem setHighHalf_toNat (d : Dword) (v : Word) :
    (setHighHalf d v).toNat = v.toNat * 2 ^ 32 + d.toNat % 2 ^ 32 := by
  rw [setHighHalf, append_toNat, lowHalf_toNat]

theorem opField_toNat (w : Word) : (opField w).toNat = w.toNat % 16 := by
  simp only [opField, BitVec.extractLsb'_toNat, Nat.shiftRight_eq_div_pow]
  omega

theorem zeroField_eq_zero (w : Word) : zeroField w = 0 ↔ w.toNat / 16 = 0 := by
  have := w.isLt
  rw [← BitVec.toNat_inj, show (0 : BitVec 28).toNat = 0 from rfl]
  simp only [zeroField, BitVec.extractLsb'_toNat, Nat.shiftRight_eq_div_pow]
  omega

/-- The loaded schedule word and the command word as numbers (spec/00_scope.md R17). -/
theorem be32_toNat (b0 b1 b2 b3 : Byte) :
    (be32 b0 b1 b2 b3).toNat =
      b0.toNat * 2 ^ 24 + b1.toNat * 2 ^ 16 + b2.toNat * 2 ^ 8 + b3.toNat := by
  simp only [be32, append_toNat]
  omega

/-- Writing the low half keeps the high half, and the other way round (spec/10_state.md R50). -/
theorem setLowHalf_high (d : Dword) (v : Word) :
    (setLowHalf d v).toNat / 2 ^ 32 = d.toNat / 2 ^ 32 := by
  rw [setLowHalf_toNat]
  omega

theorem setHighHalf_low (d : Dword) (v : Word) :
    (setHighHalf d v).toNat % 2 ^ 32 = d.toNat % 2 ^ 32 := by
  rw [setHighHalf_toNat]
  omega

end Sys2Proof.Machine
end

