-- ==== Sys2Proof/Laws/Step.lean ====
section
/-! SUPPORT. Inversion lemmas for the host port and for `step`: everything a step can do. -/

namespace Sys2Proof.Machine

/-- A register read changes nothing but the response. -/
theorem regRead_cases (s : State) (off size : Nat) :
    regRead s off size = s.reject ∨ ∃ v, regRead s off size = s.respond (.okayWord v) := by
  unfold regRead
  split
  · exact .inl rfl
  · split
    · exact .inr ⟨_, rfl⟩
    · exact .inl rfl

/-- A message memory read changes nothing but the response and the counter of the free values. -/
theorem msgRead_cases (s : State) (a size : Nat) :
    msgRead s a size = s.reject ∨
    (size = 1 ∧ a < s.cfg.msgCap ∧ s.phase = .idle ∧
      msgRead s a size = (s.respond (.okayByte (s.msgByte a))).countRead) := by
  unfold msgRead
  split
  · exact .inl rfl
  · rename_i h
    simp only [State.badMsgShape, Bool.or_eq_true, bne_iff_ne, ne_eq, decide_eq_true_eq, State.busy_iff,
      not_or, not_not, not_le] at h
    exact .inr ⟨h.1.1, h.1.2, h.2, rfl⟩

/-- A message memory write stores one byte, or is rejected. -/
theorem msgWrite_cases (s : State) (a size : Nat) (v : Byte) :
    msgWrite s a size v = s.reject ∨
    (size = 1 ∧ a < s.cfg.msgCap ∧ s.phase = .idle ∧
      msgWrite s a size v = (s.writeMsg a v).respond .okay) := by
  unfold msgWrite
  split
  · exact .inl rfl
  · rename_i h
    simp only [State.badMsgShape, Bool.or_eq_true, bne_iff_ne, ne_eq, decide_eq_true_eq, State.busy_iff,
      not_or, not_not, not_le] at h
    exact .inr ⟨h.1.1, h.1.2, h.2, rfl⟩

/-- What a write of a plain register can leave: one register changed, and of `LEN` and `BLK` one half. -/
theorem writeReg_cases {s t : State} {r : Reg} {v : Word} (h : s.writeReg r v = some t) :
    (r = .ctrl ∧ t = { s with allowEmpty := v.getLsbD 0 }) ∨
    (r = .lenLo ∧ t = { s with len := setLowHalf s.len v }) ∨
    (r = .lenHi ∧ t = { s with len := setHighHalf s.len v }) ∨
    (r = .blkLo ∧ t = { s with blk := setLowHalf s.blk v }) ∨
    (r = .blkHi ∧ t = { s with blk := setHighHalf s.blk v }) := by
  cases r <;> simp_all [State.writeReg]

/-- An offset that decodes to a register is that register's (spec/10_state.md R45). -/
theorem eq_offset_of_ofOffset {off : Nat} {r : Reg} (h : Reg.ofOffset off = some r) : off = r.offset := by
  unfold Reg.ofOffset at h
  split at h
  · unfold Reg.ofWordIndex at h
    split at h
    all_goals first
      | (cases h; simp only [Reg.offset]; omega)
      | (split at h
         · cases h; simp only [Reg.offset]; omega
         · split at h
           · cases h; simp only [Reg.offset]; omega
           · cases h)
  · cases h

/-- The shape checks of a register access, passed. -/
theorem badRegShape_eq_false {off size : Nat} (h : badRegShape off size = false) :
    size = 4 ∧ off % 4 = 0 ∧ off ≤ 0x1FC := by
  simp only [badRegShape, Bool.or_eq_false_iff, bne_eq_false_iff_eq, decide_eq_false_iff_not, not_lt] at h
  exact ⟨h.1.1, h.1.2, h.2⟩

/-- What the write of `v` at the offset of a plain register leaves, before its response (R217). -/
def State.PlainWrite (s : State) (off : Nat) (v : Word) (u : State) : Prop :=
  (off = 0x000 ∧ u = { s with allowEmpty := v.getLsbD 0 }) ∨
  (off = 0x010 ∧ u = { s with len := setLowHalf s.len v }) ∨
  (off = 0x014 ∧ u = { s with len := setHighHalf s.len v }) ∨
  (off = 0x040 ∧ u = { s with blk := setLowHalf s.blk v }) ∨
  (off = 0x044 ∧ u = { s with blk := setHighHalf s.blk v })

theorem plainWrite_of_writeReg {s u : State} {off : Nat} {r : Reg} {v : Word}
    (hr : Reg.ofOffset off = some r) (hu : s.writeReg r v = some u) : s.PlainWrite off v u := by
  have ho := eq_offset_of_ofOffset hr
  rcases writeReg_cases hu with ⟨rfl, h⟩ | ⟨rfl, h⟩ | ⟨rfl, h⟩ | ⟨rfl, h⟩ | ⟨rfl, h⟩
  · exact .inl ⟨ho, h⟩
  · exact .inr (.inl ⟨ho, h⟩)
  · exact .inr (.inr (.inl ⟨ho, h⟩))
  · exact .inr (.inr (.inr (.inl ⟨ho, h⟩)))
  · exact .inr (.inr (.inr (.inr ⟨ho, h⟩)))

/-- A register write is rejected, or writes a plain register, or, at `CMD`, runs a command. -/
theorem regWrite_cases {s t : State} {off size : Nat} {v : Word} (h : regWrite s off size v = .next t) :
    t = s.reject ∨
    (s.phase = .idle ∧ size = 4 ∧ ∃ u, s.PlainWrite off v u ∧ t = u.respond .okay) ∨
    (s.phase = .idle ∧ size = 4 ∧ off = 0x004 ∧ ∃ i, decode v = .ok i ∧ exec i s = .next t) := by
  unfold regWrite at h
  split at h
  · cases h; exact .inl rfl
  · rename_i h1
    simp only [Bool.or_eq_true, not_or, Bool.not_eq_true] at h1
    obtain ⟨hsize, -, -⟩ := badRegShape_eq_false h1.1
    have hidle : s.phase = .idle := State.busy_eq_false_iff.1 h1.2
    unfold writeOffset at h
    split at h
    · cases h; exact .inl rfl
    · rename_i hr
      unfold commandWrite at h
      split at h
      · rename_i i hi; exact .inr (.inr ⟨hidle, hsize, eq_offset_of_ofOffset hr, i, hi, h⟩)
      · cases h; exact .inl rfl
    · rename_i r _ hr
      split at h
      · rename_i u hu
        cases h
        exact .inr (.inl ⟨hidle, hsize, u, plainWrite_of_writeReg hr hu, rfl⟩)
      · cases h; exact .inl rfl

/-- A register write always answers a next state. -/
theorem regWrite_completes (s : State) (off size : Nat) (v : Word) :
    ∃ t, regWrite s off size v = .next t := by
  unfold regWrite writeOffset commandWrite
  repeat' split
  all_goals first
    | exact ⟨_, rfl⟩
    | exact exec_completes _ _

/-- A host access always answers a next state (spec/93: "no access can hang the port"). -/
theorem hostAccess_completes (s : State) (a : Access) : ∃ t, hostAccess s a = .next t := by
  unfold hostAccess
  split
  · exact ⟨_, rfl⟩
  · exact regWrite_completes ..
  · exact ⟨_, rfl⟩
  · exact ⟨_, rfl⟩

/-- Everything a host access can do. -/
theorem hostAccess_cases {s t : State} {a : Access} (h : hostAccess s a = .next t) :
    t = s.reject ∨
    (a.space = .reg ∧ a.dir = .read ∧ ∃ v, t = s.respond (.okayWord v)) ∨
    (s.phase = .idle ∧
      ((a.space = .msg ∧ a.dir = .read ∧ a.size = 1 ∧ a.addr < s.cfg.msgCap ∧
          t = (s.respond (.okayByte (s.msgByte a.addr))).countRead) ∨
       (a.space = .msg ∧ a.dir = .write ∧ a.size = 1 ∧ a.addr < s.cfg.msgCap ∧
          t = (s.writeMsg a.addr (BitVec.ofNat 8 a.data)).respond .okay) ∨
       (a.space = .reg ∧ a.dir = .write ∧ a.size = 4 ∧
          ∃ u, s.PlainWrite a.addr (BitVec.ofNat 32 a.data) u ∧ t = u.respond .okay) ∨
       (a.space = .reg ∧ a.dir = .write ∧ a.size = 4 ∧ a.addr = 0x004 ∧
          ∃ i, decode (BitVec.ofNat 32 a.data) = .ok i ∧ exec i s = .next t))) := by
  unfold hostAccess at h
  split at h <;> rename_i hs hd
  · cases h
    rcases regRead_cases s a.addr a.size with h | ⟨v, h⟩
    · exact .inl h
    · exact .inr (.inl ⟨hs, hd, v, h⟩)
  · rcases regWrite_cases h with h | ⟨hi, hz, hu⟩ | ⟨hi, hz, ha, i, hdec, h⟩
    · exact .inl h
    · exact .inr (.inr ⟨hi, .inr (.inr (.inl ⟨hs, hd, hz, hu⟩))⟩)
    · exact .inr (.inr ⟨hi, .inr (.inr (.inr ⟨hs, hd, hz, ha, i, hdec, h⟩))⟩)
  · cases h
    rcases msgRead_cases s a.addr a.size with h | ⟨hz, ha, hi, h⟩
    · exact .inl h
    · exact .inr (.inr ⟨hi, .inl ⟨hs, hd, hz, ha, h⟩⟩)
  · cases h
    rcases msgWrite_cases s a.addr a.size (BitVec.ofNat 8 a.data) with h | ⟨hz, ha, hi, h⟩
    · exact .inl h
    · exact .inr (.inr ⟨hi, .inr (.inl ⟨hs, hd, hz, ha, h⟩)⟩)

/-- Everything a step can do: the engine's step when no event is listed, else the first event's. -/
theorem step_cases {s t : State} (h : step s = .next t) :
    (s.events = [] ∧ engineStep s = .next t) ∨
    (∃ rest, s.events = .engine :: rest ∧ engineStep { s with events := rest } = .next t) ∨
    (∃ a rest, s.events = .access a :: rest ∧ hostAccess { s with events := rest } a = .next t) ∨
    (∃ rest, s.events = .reset :: rest ∧ t = { s with events := rest }.resetEvent) := by
  unfold step nextEvent doEvent at h
  split at h
  · rename_i he; exact .inl ⟨he, h⟩
  · rename_i e rest he
    split at h
    · exact .inr (.inr (.inl ⟨_, rest, he, h⟩))
    · exact .inr (.inl ⟨rest, he, h⟩)
    · cases h; exact .inr (.inr (.inr ⟨rest, he, rfl⟩))

theorem step_of_no_events {s : State} (h : s.events = []) : step s = engineStep s := by
  simp [step, nextEvent, h]

theorem step_of_event {s : State} {e : Event} {rest : List Event} (h : s.events = e :: rest) :
    step s = doEvent { s with events := rest } e := by
  simp [step, nextEvent, h]

end Sys2Proof.Machine
end

