-- ==== Sys2Proof/Tests/Slice0.lean ====
section
/-! SUPPORT. The model's own tests. Expected values are the spec's: worked examples of the rules and the vectors of
spec/95_test_vectors.md, named in each comment. Then one witness for each statement's hypotheses. -/

namespace Sys2Proof.Tests

open Sys2Proof.Machine

/-! ### Helpers -/

/-- A field of the next state. -/
def after {α : Type} (o : Host.Outcome State Fault Refusal) (f : State → α) : Option α :=
  match o with
  | .next s => some (f s)
  | .fault _ => none
  | .refused _ => none

/-- The response and the `STATUS` word after a step. -/
def reply (o : Host.Outcome State Fault Refusal) : Option (Option Response × Word) :=
  after o fun s => (s.resp, s.statusWord)

/-- An instance of 128 bytes just after reset (the start state of V9). -/
def fresh : State := State.resetOf ⟨128, true, 0, 0⟩

/-- `fresh` with the message "abc" written and `LEN` = 3 (P1). -/
def abc : State := { fresh with msg := [(0, 0x61), (1, 0x62), (2, 0x63)], len := 3 }

/-- A build whose constants could not be produced, just after reset (V10). -/
def broken : State := State.resetOf ⟨128, false, 0, 0⟩

/-- `STATUS` = 0x20, after an AllocationFailure. -/
def failed : State := { abc with err := .alloc }

/-- "abc" being padded for a `DIGEST`, at its first byte (R141). -/
def padding : State := { abc with phase := .pad, opk := .digest, padlen := 64, p := 3 }

/-- "abc" being padded for a `PAD`, at its last byte (R141). -/
def paddingLast : State := { abc with phase := .pad, opk := .pad, padlen := 64, p := 63 }

/-- Block 0 with the bytes 0x61 0x62 0x63 0x80 at its start, being loaded (R157). -/
def loading : State :=
  { abc with
    msg := [(0, 0x61), (1, 0x62), (2, 0x63), (3, 0x80)], phase := .sched, opk := .block, t := 0 }

/-- The schedule of "abc" after its sixteen loads, at `t` = 17 (R158's worked example). -/
def expanding : State :=
  { loading with w := ((Vector.replicate 64 0).set 0 0x61626380).set 15 0x00000018, t := 17 }

/-- The first round of "abc" (R176's worked example). -/
def rounding : State :=
  { loading with
    w := (Vector.replicate 64 0).set 0 0x61626380, phase := .round, t := 0,
    vars := ⟨0x6a09e667, 0xbb67ae85, 0x3c6ef372, 0xa54ff53a, 0x510e527f, 0x9b05688c, 0x1f83d9ab,
      0x5be0cd19⟩ }

/-- The ADD step of "abc", the last of its `DIGEST` (R178's worked example). -/
def adding : State :=
  { loading with
    phase := .add, opk := .digest, padlen := 64, t := 63,
    vars := ⟨0x506E3058, 0xD39A2165, 0x04D24D6C, 0xB85E2CE9, 0x5EF50F24, 0xFB121210, 0x948D25B6,
      0x961F4894⟩ }

/-- The last step of `adding`'s `DIGEST`, done: `VALID` = 1 and `BLK = PADLEN / 64` (R60 item 2). -/
def finished : State := { abc with padlen := 64, blk := 1, valid := true }

/-- `s` with one event listed. -/
def upNext (s : State) (e : Event) : State := { s with events := [e] }

/-! ### Decoding: words written out from R100 and R101 -/

theorem test_decode_nop : decode 0b00000000000000000000000000000000 = .ok .nop := by decide
theorem test_decode_init : decode 0b00000000000000000000000000000001 = .ok .init := by decide
theorem test_decode_pad : decode 0b00000000000000000000000000000010 = .ok .pad := by decide
theorem test_decode_block : decode 0b00000000000000000000000000000011 = .ok .block := by decide
theorem test_decode_digest : decode 0b00000000000000000000000000000100 = .ok .digest := by decide
theorem test_decode_clear : decode 0b00000000000000000000000000000101 = .ok .clear := by decide
/-- V9: OP 6 and 15; V9: the ZERO field not 0. -/
theorem test_decode_rejects :
    decode 0x00000006 = .error (.reservedOpcode 6) ∧ decode 0x0000000F = .error (.reservedOpcode 15) ∧
    decode 0x00000014 = .error .zeroFieldSet ∧ decode 0x80000004 = .error .zeroFieldSet := by decide
theorem test_tableWord : decodeTableWord 32 4 = some .digest ∧ decodeTableWord 32 6 = none := by decide
theorem test_fetchWord_runs_digest :
    reply (step (State.reset.withFetchWord 32 4)) = some (some .okay, 0x30) := by decide

/-! ### WellFormed: an ill-formed term for each check -/

theorem test_wf_read_with_data : Access.wf ⟨.reg, .read, 0, 4, 1⟩ = false := by decide
theorem test_wf_write_too_wide :
    Access.wf ⟨.msg, .write, 0, 1, 256⟩ = false ∧ Access.wf ⟨.msg, .write, 0, 1, 255⟩ = true := by decide
theorem test_wf_capacity_not_blocks : ¬ (Config.mk 100 true 0 0).wf := by decide
theorem test_wf_capacity_zero : ¬ (Config.mk 0 true 0 0).wf := by decide
theorem test_wf_capacity_too_big : ¬ (Config.mk (2 ^ 64) true 0 0).wf := by decide
theorem test_wf_reg_base : ¬ (Config.mk 64 true 100 0).wf ∧ Config.default.wf := by decide

/-! ### Primitives: V5 -/

theorem test_prim_rotr : rotr 0x12345678 8 = 0x78123456 ∧ rotr 0x12345678 31 = 0x2468ACF0 := by decide
theorem test_prim_shr_not : shr 0x80000000 3 = 0x10000000 ∧ ~~~(0x510E527F : Word) = 0xAEF1AD80 := by decide
theorem test_be64_first_byte : (be64 1 0 0 0 0 0 0 2).toNat = 2 ^ 56 + 2 := by decide
theorem test_prim_bytes :
    be32 0x61 0x62 0x63 0x80 = 0x61626380 ∧ bytesBe64 0x1C0 = [0, 0, 0, 0, 0, 0, 1, 0xC0] := by decide
theorem test_sigmas :
    sigma0 0x12345678 = 0xe7fce6ee ∧ sigma1 0x12345678 = 0xa1f78649 ∧
    bigSigma0 0x12345678 = 0x66146474 ∧ bigSigma1 0x12345678 = 0x3561abda := by decide
theorem test_ch_maj :
    ch 0xF0F0F0F0 0x12345678 0x9ABCDEF0 = 0x1A3C5E70 ∧
    maj 0x6A09E667 0xBB67AE85 0x3C6EF372 = 0x3A6FE667 := by decide

/-! ### Padding: V6; constants: V8 -/

theorem test_padLength :
    [0, 54, 55, 56, 63, 64, 119, 120].map padLength = [64, 64, 64, 128, 128, 128, 128, 192] := by decide
theorem test_padByte :
    padByte 3 3 = 0x80 ∧ padByte 3 55 = 0 ∧ padByte 3 63 = 0x18 ∧ padByte 56 126 = 1 ∧
    padByte 56 127 = 0xC0 := by decide
theorem test_icbrt : icbrt (2 * 2 ^ 96) = 0x1428a2f98 ∧ kDerived 311 = 0xc67178f2 := by decide +kernel

/-! ### Commands: the examples of R222 to R228 and V10, P3, P4 -/

theorem test_nop_keeps_status :
    reply (exec .nop { fresh with valid := true }) = some (some .okay, 0x02) := by decide
theorem test_init_h0 :
    after (exec .init { fresh with h := Vector.replicate 8 7 }) (fun s => s.h[0]) = some 0x6A09E667 := by
  decide
theorem test_init_rejected_on_error : reply (exec .init failed) = some (some .error, 0x20) := by decide
theorem test_pad_len3 :
    after (exec .pad abc) (fun s => (s.padlen, s.p, s.phase)) = some (64, 3, .pad) := by decide
/-- V10: `LEN` = 2^64 - 1, compared without wrap. -/
theorem test_pad_alloc_no_wrap :
    reply (exec .pad { fresh with len := 0xFFFFFFFFFFFFFFFF }) = some (some .okay, 0x20) := by decide
/-- V9: block 2 of 128 bytes. -/
theorem test_block_out_of_range :
    after (exec .block { fresh with blk := 2 }) (fun s => (s.resp, s.blk, s.phase)) =
      some (some .error, 2, .idle) := by decide
theorem test_block_accepted : reply (exec .block { fresh with blk := 1 }) = some (some .okay, 0x01) := by
  decide
theorem test_digest_empty : reply (exec .digest fresh) = some (some .okay, 0x30) := by decide
/-- V10: CONST wins over EMPTY. -/
theorem test_digest_const_first :
    reply (exec .digest { broken with err := .none }) = some (some .okay, 0x10) := by decide
theorem test_clear : reply (exec .clear { fresh with err := .empty }) = some (some .okay, 0x00) := by decide

/-! ### Engine steps: the worked examples of R141, R157, R158, R176, R178 -/

theorem test_padByteStep_first :
    after (engineStep padding) (fun s => (s.msg.read 3, s.p, s.phase)) = some (some 0x80, 4, .pad) := by
  decide
theorem test_padByteStep_last :
    after (engineStep paddingLast) (fun s => (s.msg.read 63, s.phase)) = some (some 0x18, .idle) := by
  decide
theorem test_sched_load :
    after (engineStep loading) (fun s => (s.w[0], s.t)) = some (0x61626380, 1) := by decide
theorem test_sched_expand :
    after (engineStep expanding) (fun s => (s.w[17], s.t)) = some (0x000F0000, 18) := by decide
theorem test_winit :
    after (engineStep { fresh with phase := .winit, t := 63 }) (fun s => (s.vars.e, s.t, s.phase)) =
      some (0x510e527f, 0, .round) := by decide
theorem test_round :
    after (engineStep rounding) (fun s => s.vars) =
      some ⟨0x5D6AEBCD, 0x6A09E667, 0xBB67AE85, 0x3C6EF372, 0xFA2A4622, 0x510E527F, 0x9B05688C,
        0x1F83D9AB⟩ := by decide
theorem test_add :
    after (engineStep adding) (fun s => (s.h, s.blk, s.valid, s.phase)) =
      some (#v[0xba7816bf, 0x8f01cfea, 0x414140de, 0x5dae2223, 0xb00361a3, 0x96177a9c, 0xb410ff61,
        0xf20015ad], 1, true, .idle) := by decide
/-- The hex form of R206 for "abc". -/
theorem test_toHex :
    toHex #v[0xba7816bf, 0x8f01cfea, 0x414140de, 0x5dae2223, 0xb00361a3, 0x96177a9c, 0xb410ff61,
      0xf20015ad] = "ba7816bf8f01cfea414140de5dae2223b00361a396177a9cb410ff61f20015ad" := by decide

/-! ### Host accesses: V9, V8, V10 -/

theorem test_read_status_and_hash :
    reply (hostAccess fresh (Access.rd32 0x008)) = some (some (.okayWord 0), 0) ∧
    reply (hostAccess fresh (Access.rd32 0x020)) = some (some (.okayWord 0x6a09e667), 0) ∧
    reply (hostAccess fresh (Access.rd32 0x03C)) = some (some (.okayWord 0x5be0cd19), 0) := by decide
theorem test_read_cap_and_krom :
    reply (hostAccess fresh (Access.rd32 0x048)) = some (some (.okayWord 0x80), 0) ∧
    reply (hostAccess fresh (Access.rd32 0x148)) = some (some (.okayWord 0x0fc19dc6), 0) ∧
    reply (hostAccess fresh (Access.rd32 0x1FC)) = some (some (.okayWord 0xc67178f2), 0) ∧
    reply (hostAccess broken (Access.rd32 0x100)) = some (some .error, 0x10) := by decide
theorem test_read_rejected :
    [0x004, 0x00C, 0x050, 0x0FC, 0x022, 0x200].map
      (fun off => reply (hostAccess fresh (Access.rd32 off))) =
      List.replicate 6 (some (some .error, 0)) := by decide
theorem test_read_gated : reply (hostAccess failed (Access.rd32 0x020)) =
    some (some (.okayWord 0), 0x20) := by decide
theorem test_write_ctrl :
    after (hostAccess fresh (Access.wr32 0 0xFFFFFFFF)) (fun s => s.allowEmpty) = some true ∧
    after (hostAccess fresh (Access.wr32 0 0xFFFFFFFE)) (fun s => s.allowEmpty) = some false := by decide
theorem test_write_halves :
    after (hostAccess { fresh with len := 0x1111111122222222 } (Access.wr32 0x014 0x33333333))
      (fun s => s.len) = some 0x3333333322222222 := by decide
theorem test_write_read_only :
    [0x008, 0x018, 0x020, 0x048, 0x100, 0x200].map
      (fun off => reply (hostAccess fresh (Access.wr32 off 0))) =
      List.replicate 6 (some (some .error, 0)) := by decide
theorem test_msg_access :
    reply (hostAccess abc (Access.rd8 1)) = some (some (.okayByte 0x62), 0) ∧
    reply (hostAccess abc (Access.rd8 128)) = some (some .error, 0) ∧
    reply (hostAccess abc ⟨.msg, .read, 0, 4, 0⟩) = some (some .error, 0) ∧
    after (hostAccess abc (Access.wr8 127 0xAB)) (fun s => s.msg.read 127) = some (some 0xAB) := by decide
/-- V9: `RD8 127` is OKAY with an unspecified value. -/
theorem test_msg_unwritten :
    hostAccess fresh (Access.rd8 127) =
      .next { fresh with resp := some (.okayByte (Config.freeByte 0 127)), freeCount := 1 } := rfl
/-- P5: accesses while busy. -/
theorem test_busy_lock_out :
    reply (hostAccess padding (Access.rd32 0x020)) = some (some .error, 1) ∧
    reply (hostAccess padding (Access.command 0)) = some (some .error, 1) ∧
    reply (hostAccess padding (Access.rd8 0)) = some (some .error, 1) ∧
    reply (hostAccess padding (Access.rd32 0x008)) = some (some (.okayWord 1), 1) := by decide
theorem test_reset_while_busy :
    after (step (upNext padding .reset)) (fun s => (s.phase, s.len, s.msg)) = some (.idle, 0, []) := by
  decide

/-! ### States that meet the invariant -/

theorem inv_abc : abc.Inv := by constructor <;> decide
theorem inv_failed : failed.Inv := by constructor <;> decide
theorem inv_broken : broken.Inv := by constructor <;> decide
theorem inv_padding : padding.Inv := by constructor <;> decide
theorem inv_paddingLast : paddingLast.Inv := by constructor <;> decide
theorem inv_loading : loading.Inv := by constructor <;> decide
theorem inv_adding : adding.Inv := by constructor <;> decide
theorem inv_finished : finished.Inv := by constructor <;> decide
theorem inv_upNext {s : State} (h : s.Inv) (e : Event) : (upNext s e).Inv :=
  ⟨h.cfgWf, h.msgWf, h.msgBound, h.busyClean, h.validClean, h.padlenShape, h.blockInside, h.padRange,
    h.padCommand, h.padDigest, h.blockCommand, h.blockDigest, h.kromRunning⟩

/-! ### Witnesses: a state and operands that meet each statement's hypotheses -/

theorem witness_RotateMovesEachBit : 1 ≤ 1 ∧ 31 ≤ 31 ∧ 31 < 32 := by decide
theorem witness_ChSelectsAndMajVotes : 31 < 32 := by decide
theorem witness_DecodeIffEncode : decode 0x00000005 = .ok .clear ∧ (0x00000005 : Word) = encode .clear := by
  decide
theorem witness_IllegalWords :
    6 ≤ (0x00000006 : Word).toNat % 16 ∧ (0x00000010 : Word).toNat / 16 ≠ 0 ∧
    decode 0x00000000 = .ok .nop := by decide
theorem witness_RegisterMap :
    Reg.ofOffset 0x03C = some (.hash 7) ∧ Reg.ofOffset 0x1FC = some (.krom 63) ∧
    Reg.ofOffset 0x100 = some (.krom 0) ∧ Reg.ofOffset 0x040 = some .blkLo := by decide
theorem witness_RoundConstants : romPrimes[63]? = some 311 ∧ ∃ c : ℝ, c ^ 3 = ((311 : ℕ) : ℝ) := by
  refine ⟨by decide, ((311 : ℕ) : ℝ) ^ ((3 : ℕ) : ℝ)⁻¹, ?_⟩
  exact Real.rpow_inv_natCast_pow (by positivity) (by norm_num)
theorem witness_MessageMemoryAccess :
    127 < abc.cfg.msgCap ∧ abc.phase = .idle ∧ abc.cfg.msgCap ≤ 128 ∧ padding.phase ≠ .idle := by decide
theorem witness_BusyLockOut : padding.phase ≠ .idle := by decide
theorem witness_ErrorResponse :
    ∃ t, hostAccess abc (Access.rd8 128) = .next t ∧ t.resp = some .error := ⟨_, rfl, rfl⟩
theorem witness_NoSideEffects_read :
    ∃ t, hostAccess abc (Access.rd8 0) = .next t ∧ (Access.rd8 0).dir = .read := ⟨_, rfl, rfl⟩
theorem witness_NoSideEffects_byte : ∃ t, hostAccess abc (Access.wr8 0 1) = .next t ∧
    (Access.wr8 0 1).dir = .write ∧ (Access.wr8 0 1).space = .msg := ⟨_, rfl, rfl, rfl⟩
theorem witness_NoSideEffects_register :
    ∀ off ∈ ([0x000, 0x010, 0x014, 0x040, 0x044, 0x048] : List Nat),
      ∃ t, hostAccess abc (Access.wr32 off 1) = .next t ∧ (Access.wr32 off 1).dir = .write ∧
        (Access.wr32 off 1).space = .reg ∧ (Access.wr32 off 1).addr = off := by
  intro off h
  simp only [List.mem_cons, List.not_mem_nil, or_false] at h
  rcases h with rfl | rfl | rfl | rfl | rfl | rfl <;> exact ⟨_, rfl, rfl, rfl, rfl⟩
theorem witness_StatusWordValues : padding.Inv ∧ failed.Inv := ⟨inv_padding, inv_failed⟩
theorem witness_NoDigestWhileError : failed.Inv ∧ failed.err ≠ .none := ⟨inv_failed, by decide⟩
/-- Of every statement about a command at acceptance, and of the whole commands. -/
theorem witness_acceptance :
    abc.phase = .idle ∧ abc.err = .none ∧ abc.cfg.wf ∧ abc.cfg.kromOk = true ∧ abc.LengthOk ∧
    64 * abc.blk.toNat + 64 ≤ abc.cfg.msgCap ∧ failed.err ≠ .none := by decide
/-- `BLOCK` at the edge of the memory: block 1 lies inside 128 bytes, block 2 does not. -/
theorem witness_BlockAcceptance_edge :
    64 * ({ abc with blk := 1 } : State).blk.toNat + 64 ≤ abc.cfg.msgCap ∧
    abc.cfg.msgCap < 64 * ({ abc with blk := 2 } : State).blk.toNat + 64 := by decide
theorem witness_LengthErrors : Config.default.wf := by decide
theorem witness_CommandsRejected :
    (failed.err ≠ .none ∧ Instr.pad ≠ .nop ∧ Instr.pad ≠ .clear) ∧ padding.phase ≠ .idle := by decide
theorem witness_ErrorEntry :
    fresh.err = .none ∧ ∃ t, exec .digest fresh = .next t ∧ t.err ≠ .none :=
  ⟨rfl, _, rfl, by decide⟩
theorem witness_StepRunsTheDecodedCommand :
    (upNext abc (.access (Access.command 2))).events = .access (Access.command 2) :: [] ∧
    decode 2 = .ok .pad ∧ decodeTableWord 32 5 = some .clear := by decide
theorem witness_StepTakesEventsInOrder :
    abc.events = [] ∧ abc.phase = .idle ∧ (upNext abc .engine).events = .engine :: [] ∧
    (upNext abc (.access (Access.rd8 0))).events = .access (Access.rd8 0) :: [] ∧
    (upNext padding .reset).events = .reset :: [] := by decide
theorem witness_Reset : (upNext padding .reset).events = .reset :: [] := by decide
theorem witness_ConfigurationNeverChanges : ∃ t, step (upNext padding .reset) = .next t := ⟨_, rfl⟩
theorem witness_InvariantHoldsAtReset : (Config.mk 64 false 512 7).wf := by decide
theorem witness_InvariantIsKept : padding.Inv ∧ ∃ t, step padding = .next t := ⟨inv_padding, _, rfl⟩
theorem witness_NoStepStops : adding.Inv := inv_adding
theorem witness_HashState_add : ∃ t, step adding = .next t ∧ t.h ≠ adding.h := ⟨_, rfl, by decide⟩
theorem witness_HashState_init :
    ∃ t, step (upNext { abc with h := Vector.replicate 8 0 } (.access (Access.command 1))) = .next t ∧
      t.h ≠ Vector.replicate 8 0 := ⟨_, rfl, by decide⟩
theorem witness_HashState_reset :
    ∃ t, step (upNext { abc with h := Vector.replicate 8 0 } .reset) = .next t ∧
      t.h ≠ Vector.replicate 8 0 := ⟨_, rfl, by decide⟩
theorem witness_ValidIsSet :
    adding.Inv ∧ adding.valid = false ∧ ∃ t, step adding = .next t ∧ t.valid = true :=
  ⟨inv_adding, rfl, _, rfl, by decide⟩
theorem witness_ValidKeepsBlk :
    (upNext finished (.access (Access.wr32 0x010 0))).Inv ∧
    64 * finished.blk.toNat = finished.padlen.toNat ∧
    ∃ t, step (upNext finished (.access (Access.wr32 0x010 0))) = .next t ∧ t.valid = true ∧
      (Access.wr32 0x010 0).addr ≠ 0x040 ∧ (Access.wr32 0x010 0).addr ≠ 0x044 :=
  ⟨inv_upNext inv_finished _, by decide, _, rfl, by decide⟩
theorem witness_ErrorsArise_command :
    ∃ t, step (upNext fresh (.access (Access.command 2))) = .next t ∧ fresh.err = .none ∧ t.err ≠ .none :=
  ⟨_, rfl, rfl, by decide⟩
theorem witness_ErrorsArise_reset :
    ∃ t, step (upNext { broken with err := .none } .reset) = .next t ∧ t.err ≠ .none :=
  ⟨_, rfl, by decide⟩
theorem witness_ErrorsAreSticky :
    failed.err ≠ .none ∧ ∃ t, step (upNext failed (.access (Access.command 5))) = .next t ∧
      t.err ≠ failed.err := ⟨by decide, _, rfl, by decide⟩
theorem witness_MessageBytes_pad :
    padding.Inv ∧ ∃ t, step padding = .next t ∧ t.msg.read 3 ≠ padding.msg.read 3 :=
  ⟨inv_padding, _, rfl, by decide⟩
theorem witness_MessageBytes_host :
    (upNext abc (.access (Access.wr8 0 9))).Inv ∧
    ∃ t, step (upNext abc (.access (Access.wr8 0 9))) = .next t ∧ t.msg.read 0 ≠ abc.msg.read 0 :=
  ⟨inv_upNext inv_abc _, _, rfl, by decide⟩
theorem witness_Phase_leaves :
    (upNext abc (.access (Access.command 3))).Inv ∧ abc.phase = .idle ∧
    ∃ t, step (upNext abc (.access (Access.command 3))) = .next t ∧ t.phase ≠ .idle :=
  ⟨inv_upNext inv_abc _, rfl, _, rfl, by decide⟩
theorem witness_Phase_returns :
    paddingLast.Inv ∧ paddingLast.phase ≠ .idle ∧ ∃ t, step paddingLast = .next t ∧ t.phase = .idle :=
  ⟨inv_paddingLast, by decide, _, rfl, by decide⟩
theorem witness_Phase_returns_by_add :
    adding.Inv ∧ adding.phase ≠ .idle ∧ ∃ t, step adding = .next t ∧ t.phase = .idle :=
  ⟨inv_adding, by decide, _, rfl, by decide⟩
theorem witness_PadByteStep : padding.Inv ∧ padding.phase = .pad := ⟨inv_padding, rfl⟩
theorem witness_PadByteStep_last :
    paddingLast.Inv ∧ paddingLast.p.toNat + 1 = paddingLast.padlen.toNat ∧ paddingLast.opk = .pad ∧
    ({ paddingLast with opk := .digest } : State).Inv ∧
    ({ paddingLast with opk := .digest } : State).phase = .pad :=
  ⟨inv_paddingLast, by decide, rfl, by constructor <;> decide, rfl⟩
theorem witness_ScheduleLoadStep :
    ({ loading with t := 15 } : State).Inv ∧ ({ loading with t := 15 } : State).phase = .sched ∧
    ({ loading with t := 15 } : State).t.val ≤ 15 := ⟨by constructor <;> decide, rfl, by decide⟩
theorem witness_ScheduleExpandStep :
    expanding.phase = .sched ∧ 16 ≤ expanding.t.val ∧ expanding.w[15]? = some 0x18 ∧
    expanding.w[10]? = some 0 ∧ expanding.w[2]? = some 0 ∧ expanding.w[1]? = some 0 := by decide
theorem witness_ScheduleExpandStep_first :
    ({ expanding with t := 16 } : State).t.val = 16 ∧ expanding.w[14]? = some 0 ∧
    expanding.w[9]? = some 0 ∧ expanding.w[1]? = some 0 ∧ expanding.w[0]? = some 0x61626380 := by decide
theorem witness_ScheduleExpandStep_last :
    ({ expanding with t := 63 } : State).t.val = 63 ∧ expanding.w[61]? = some 0 ∧
    expanding.w[56]? = some 0 ∧ expanding.w[48]? = some 0 ∧ expanding.w[47]? = some 0 := by decide
theorem witness_Winit : ({ loading with phase := .winit } : State).phase = .winit := rfl
theorem witness_Round : rounding.phase = .round ∧ rounding.cfg.kromOk = true := by decide
theorem witness_Round_last :
    ({ rounding with t := 63 } : State).phase = .round ∧ ({ rounding with t := 63 } : State).t.val = 63 := by
  decide
theorem witness_AddStep : adding.Inv ∧ adding.phase = .add := ⟨inv_adding, rfl⟩
/-- The ADD of a `BLOCK`, and the ADD of a `DIGEST` between its two blocks. -/
theorem witness_AddStep_branches :
    ({ adding with opk := .block } : State).Inv ∧ ({ adding with opk := .block } : State).phase = .add ∧
    ({ adding with padlen := 128 } : State).Inv ∧ ({ adding with padlen := 128 } : State).opk = .digest ∧
    64 * (({ adding with padlen := 128 } : State).blk.toNat + 1) < 128 :=
  ⟨by constructor <;> decide, rfl, by constructor <;> decide, rfl, by decide⟩
theorem witness_PadLengthFacts : (3 + 1 + 52) % 64 = 56 ∧ 55 ≤ 55 ∧ 55 < 56 := by decide
theorem witness_BitLengthWraps : 2 ^ 61 - 1 < 2 ^ 61 := by decide
theorem witness_PadIsMessage : 63 < padLength 3 := by decide
theorem witness_PadProperties :
    ([0x61] : List Byte).length < 2 ^ 61 ∧ padMessage [0x61] = padMessage [0x61] := ⟨by decide, rfl⟩
theorem witness_Schedule : 15 < 16 ∧ 16 ≤ 16 ∧ 63 < 64 := by decide
theorem witness_HexForm : 7 < 8 := by decide
theorem witness_SchedSteps :
    loading.phase = .sched ∧ loading.t = 0 ∧ 64 * loading.blk.toNat + 64 ≤ loading.cfg.msgCap := by decide
theorem witness_RoundsAndAddBack :
    ({ loading with phase := .winit } : State).phase = .winit ∧ loading.cfg.kromOk = true := by decide
theorem witness_DigestDependsOnlyOnTheMessage :
    abc.cfg = ({ abc with blk := 1, valid := true } : State).cfg ∧ abc.MessageWritten ∧
    ∀ a < abc.len.toNat, abc.msg.read a = ({ abc with blk := 1, valid := true } : State).msg.read a :=
  ⟨rfl, by unfold State.MessageWritten; decide, fun _ _ => rfl⟩
theorem witness_LongWay : abc.MessageWritten := by unfold State.MessageWritten; decide
theorem witness_EveryCommandEnds :
    padding.Inv ∧ 0 < padding.stepsLeft ∧ abc.Inv ∧ abc.phase = .idle ∧ ∃ t, exec .block abc = .next t :=
  ⟨inv_padding, by decide, inv_abc, rfl, _, rfl⟩

end Sys2Proof.Tests
end

section
/-! Family 00_scope: the rotation of R14 and the byte orders of R17 and R18. -/

namespace Sys2Proof.Machine

/-! ### The rotation (R14) -/

/-- For a count below the width, R14's pair of shifts is the library's circular rotation. -/
theorem rotr_eq_rotateRight (x : Word) {n : Nat} (hn : n < 32) : rotr x n = x.rotateRight n :=
  (BitVec.rotateRight_eq_rotateRightAux_of_lt hn).symm

/-- R14, bit by bit; unlike the rule, the count 0 is included. -/
theorem getLsbD_rotr (x : Word) {n i : Nat} (hn : n < 32) (hi : i < 32) :
    (rotr x n).getLsbD i = x.getLsbD ((i + n) % 32) := by
  rw [rotr_eq_rotateRight x hn, BitVec.getLsbD_rotateRight, Nat.mod_eq_of_lt hn]
  by_cases hwrap : i < 32 - n
  · have hidx : (i + n) % 32 = n + i := by omega
    simp [hwrap, hidx]
  · have hidx : (i + n) % 32 = i - (32 - n) := by omega
    simp [hwrap, hi, hidx]

/-! ### The byte orders (R17, R18) -/

/-- Packing the four bytes that `bytesBe32` lists gives the word back: neighbouring fields join. -/
theorem be32_extractLsb' (w : Word) :
    be32 (w.extractLsb' 24 8) (w.extractLsb' 16 8) (w.extractLsb' 8 8) (w.extractLsb' 0 8) = w := by
  simp only [be32, BitVec.extractLsb'_append_extractLsb'_eq_extractLsb']
  exact BitVec.extractLsb'_eq_self

theorem be64_extractLsb' (d : Dword) :
    be64 (d.extractLsb' 56 8) (d.extractLsb' 48 8) (d.extractLsb' 40 8) (d.extractLsb' 32 8)
      (d.extractLsb' 24 8) (d.extractLsb' 16 8) (d.extractLsb' 8 8) (d.extractLsb' 0 8) = d := by
  simp only [be64, BitVec.extractLsb'_append_extractLsb'_eq_extractLsb']
  exact BitVec.extractLsb'_eq_self

/-- Each field of a packed word is one byte: the bytes to its right are dropped one at a time, then it is the last
one. The widths stay sums (`-Nat.reduceAdd`), the form in which the append lemmas apply. -/
theorem bytesBe32_be32 (b0 b1 b2 b3 : Byte) : bytesBe32 (be32 b0 b1 b2 b3) = [b0, b1, b2, b3] := by
  simp [bytesBe32, be32, BitVec.extractLsb'_append_eq_of_le, BitVec.extractLsb'_append_eq_right,
    -Nat.reduceAdd]

theorem bytesBe64_be64 (b0 b1 b2 b3 b4 b5 b6 b7 : Byte) :
    bytesBe64 (be64 b0 b1 b2 b3 b4 b5 b6 b7) = [b0, b1, b2, b3, b4, b5, b6, b7] := by
  simp [bytesBe64, be64, BitVec.extractLsb'_append_eq_of_le, BitVec.extractLsb'_append_eq_right,
    -Nat.reduceAdd]

/-- The weighted sum of R18, the first byte the most significant. -/
theorem be64_toNat (b0 b1 b2 b3 b4 b5 b6 b7 : Byte) :
    (be64 b0 b1 b2 b3 b4 b5 b6 b7).toNat =
      b0.toNat * 2 ^ 56 + b1.toNat * 2 ^ 48 + b2.toNat * 2 ^ 40 + b3.toNat * 2 ^ 32 +
        b4.toNat * 2 ^ 24 + b5.toNat * 2 ^ 16 + b6.toNat * 2 ^ 8 + b7.toNat := by
  simp only [be64, append_toNat]
  omega

/-! ### The obligations -/

/-- Settles O1: `rotr` is the library's rotation, whose bit rule wraps once at bit `32 - n`. -/
theorem rotateMovesEachBit : Obligations.RotateMovesEachBit :=
  fun x _ _ _ hn hi => getLsbD_rotr x (Nat.lt_succ_of_le hn) hi

/-- Settles O3: packing the listed fields joins them, and a field of a packing is its byte. -/
theorem byteOrderRoundTrips : Obligations.ByteOrderRoundTrips := by
  refine ⟨fun w => ⟨_, _, _, _, rfl, be32_extractLsb' w⟩, fun b0 b1 b2 b3 => ⟨?_, ?_⟩,
    fun d => ⟨_, _, _, _, _, _, _, _, rfl, be64_extractLsb' d⟩,
    fun b0 b1 b2 b3 b4 b5 b6 b7 => ⟨?_, ?_⟩⟩
  · exact bytesBe32_be32 b0 b1 b2 b3
  · exact be32_toNat b0 b1 b2 b3
  · exact bytesBe64_be64 b0 b1 b2 b3 b4 b5 b6 b7
  · exact be64_toNat b0 b1 b2 b3 b4 b5 b6 b7

end Sys2Proof.Machine
end

section
/-! Family 10_state: the register map of R45, the status word of R48, and what a step does to the hash state (R26), to
`VALID` (R38), to `PHASE` (R40) and to the invariant of R60. -/

namespace Sys2Proof.Machine

variable {s t : State}

/-! ### The register map and the status word (R45, R48) -/

/-- The other direction of `eq_offset_of_ofOffset`. -/
theorem ofOffset_offset (r : Reg) : Reg.ofOffset r.offset = some r := by
  cases r with
  | hash i => revert i; decide
  | krom t => revert t; decide
  | _ => rfl

theorem State.statusWord_toNat (s : State) :
    s.statusWord.toNat =
      (if s.phase = .idle then 0 else 1) + 2 * s.valid.toNat + 16 * s.err.code.toNat := by
  have hbusy : s.busy.toNat = if s.phase = .idle then 0 else 1 := by
    by_cases h : s.phase = .idle <;> simp [State.busy, h]
  simp only [State.statusWord, append_toNat, BitVec.toNat_ofBool, hbusy,
    BitVec.ofNat_eq_ofNat, BitVec.toNat_zero]
  omega

/-! ### Lengths and block numbers -/

/-- R138's three facts that R60 item 3 needs: `padlen` is a multiple of the block size, at least one block, and longer than
the message. -/
theorem padLength_shape (L : Nat) : padLength L % 64 = 0 ∧ 64 ≤ padLength L ∧ L < padLength L := by
  unfold padLength zeroCount
  omega

/-- `BLK + 1` and `p + 1` do not wrap below a bound that is itself a dword. -/
theorem toNat_add_one_of_lt {d n : Dword} (h : d.toNat < n.toNat) : (d + 1).toNat = d.toNat + 1 := by
  bv_omega

theorem ne_zero_of_lt_toNat {k : Nat} {n : Dword} (h : k < n.toNat) : n ≠ 0 := by
  rintro rfl
  exact absurd h (Nat.not_lt_zero k)

/-! ### What a step can do, with the cases that most statements do not tell apart put together -/

/-- `step_cases` with the listed and the unlisted engine step as one case. -/
theorem step_cases_by_kind (h : step s = .next t) :
    (∃ evs, (s.events = [] ∨ ∃ rest, s.events = .engine :: rest) ∧
      engineStep { s with events := evs } = .next t) ∨
    (∃ a rest, s.events = .access a :: rest ∧ hostAccess { s with events := rest } a = .next t) ∨
    (∃ rest, s.events = .reset :: rest ∧ t = { s with events := rest }.resetEvent) := by
  rcases step_cases h with ⟨he, h⟩ | ⟨rest, he, h⟩ | h
  · exact .inl ⟨s.events, .inl he, h⟩
  · exact .inl ⟨rest, .inr ⟨rest, he⟩, h⟩
  · exact .inr h

/-- An accepted command is the only access that reaches more than `MSG`, `CTRL`, `LEN`, `BLK` and the response, and `BLK`
changes only by a write to one of its halves. -/
theorem hostAccess_command_or_frame {a : Access} (h : hostAccess s a = .next t) :
    (s.phase = .idle ∧ a = ⟨.reg, .write, 0x004, 4, a.data⟩ ∧
      ∃ i, decode (BitVec.ofNat 32 a.data) = .ok i ∧ exec i s = .next t) ∨
    (t = { s with
        msg := t.msg, allowEmpty := t.allowEmpty, len := t.len, blk := t.blk, resp := t.resp,
        freeCount := t.freeCount } ∧
      (t.blk = s.blk ∨ a.space = .reg ∧ a.dir = .write ∧ (a.addr = 0x040 ∨ a.addr = 0x044))) := by
  rcases hostAccess_cases h with rfl | ⟨-, -, v, rfl⟩ |
    ⟨hidle, ⟨-, -, -, -, rfl⟩ | ⟨-, -, -, -, rfl⟩ | ⟨hsp, hdir, -, u, hu, rfl⟩ |
      ⟨hsp, hdir, hsize, haddr, hexec⟩⟩
  · exact .inr ⟨rfl, .inl rfl⟩
  · exact .inr ⟨rfl, .inl rfl⟩
  · exact .inr ⟨rfl, .inl rfl⟩
  · exact .inr ⟨rfl, .inl rfl⟩
  · rcases hu with ⟨-, rfl⟩ | ⟨-, rfl⟩ | ⟨-, rfl⟩ | ⟨ha, rfl⟩ | ⟨ha, rfl⟩
    · exact .inr ⟨rfl, .inl rfl⟩
    · exact .inr ⟨rfl, .inl rfl⟩
    · exact .inr ⟨rfl, .inl rfl⟩
    · exact .inr ⟨rfl, .inr ⟨hsp, hdir, .inl ha⟩⟩
    · exact .inr ⟨rfl, .inr ⟨hsp, hdir, .inr ha⟩⟩
  · obtain ⟨sp, dir, addr, size, data⟩ := a
    simp only at hsp hdir hsize haddr
    subst hsp hdir hsize haddr
    exact .inl ⟨hidle, rfl, hexec⟩

/-- `engineStep_cases` with SCHED, WINIT and ROUND as one case: they change only the working state of the compressor, and
the block goes on. -/
theorem engineStep_cases_by_kind (h : engineStep s = .next t) :
    (s.phase = .idle ∧ t = s) ∨
    (s.phase = .pad ∧ padByteStep s = .next t) ∨
    (s.phase.onBlock = true ∧ t.phase.onBlock = true ∧
      t = { s with vars := t.vars, w := t.w, t := t.t, phase := t.phase, freeCount := t.freeCount }) ∨
    (s.phase = .add ∧ addStep s = .next t) := by
  rcases engineStep_cases h with h | h | ⟨hph, h⟩ | ⟨hph, h⟩ | ⟨hph, h⟩ | h
  · exact .inl h
  · exact .inr (.inl h)
  · refine .inr (.inr (.inl ?_))
    rcases schedStep_cases h with ⟨-, -, rfl⟩ | ⟨-, -, rfl⟩ | ⟨-, rfl⟩ <;>
      simp [hph, Phase.onBlock, State.countRead]
  · refine .inr (.inr (.inl ?_))
    obtain rfl := winitStep_cases h
    simp [hph, Phase.onBlock]
  · refine .inr (.inr (.inl ?_))
    rcases roundStep_cases h with ⟨-, rfl⟩ | ⟨-, rfl⟩ <;> simp [hph, Phase.onBlock]
  · exact .inr (.inr (.inr h))

theorem Phase.ne_idle_of_onBlock {ph : Phase} (h : ph.onBlock = true) : ph ≠ .idle := by
  rintro rfl
  cases h

theorem Phase.ne_pad_of_onBlock {ph : Phase} (h : ph.onBlock = true) : ph ≠ .pad := by
  rintro rfl
  cases h

/-! ### The invariant and the shared operations (R60) -/

/-- In IDLE only the items of R60 about the memory, `VALID` and `PADLEN` say anything. -/
theorem State.inv_of_idle (hidle : s.phase = .idle) (hcfg : s.cfg.wf) (hmsg : s.msg.wf)
    (hbound : ∀ c ∈ s.msg, c.1 < s.cfg.msgCap)
    (hvalid : s.valid = true → s.err = .none ∧ s.padlen ≠ 0)
    (hpadlen : s.padlen = 0 ∨
      (s.padlen.toNat % 64 = 0 ∧ 64 ≤ s.padlen.toNat ∧ s.padlen.toNat ≤ s.cfg.msgCap)) : s.Inv where
  cfgWf := hcfg
  msgWf := hmsg
  msgBound := hbound
  validClean := hvalid
  padlenShape := hpadlen
  busyClean h := absurd hidle h
  blockInside h := absurd hidle (Phase.ne_idle_of_onBlock h)
  padRange h := by simp [hidle] at h
  padCommand h := by simp [hidle] at h
  padDigest h := by simp [hidle] at h
  blockCommand h := absurd hidle (Phase.ne_idle_of_onBlock h)
  blockDigest h := absurd hidle (Phase.ne_idle_of_onBlock h)
  kromRunning h := absurd hidle h

theorem State.inv_resetOf {c : Config} (hc : c.wf) : (State.resetOf c).Inv :=
  State.inv_of_idle rfl hc .nil (by simp [State.resetOf]) nofun (.inl rfl)

/-- No item of R60 reads the model's own fields. -/
theorem State.Inv.withOwnFields (hs : s.Inv) (evs : List Event) (r : Option Response) (n : Nat) :
    { s with events := evs, resp := r, freeCount := n }.Inv :=
  { hs with }

theorem State.Inv.resetEvent (hs : s.Inv) : s.resetEvent.Inv :=
  (State.inv_resetOf hs.cfgWf).withOwnFields s.events s.resp s.freeCount

theorem State.Inv.respond (hs : s.Inv) (r : Response) : (s.respond r).Inv :=
  hs.withOwnFields s.events r s.freeCount

theorem State.Inv.reject (hs : s.Inv) : s.reject.Inv := hs.respond .error

theorem State.Inv.countRead (hs : s.Inv) : s.countRead.Inv :=
  hs.withOwnFields s.events s.resp (s.freeCount + 1)

theorem State.Inv.writeMsg (hs : s.Inv) {a : Nat} (ha : a < s.cfg.msgCap) (v : Byte) :
    (s.writeMsg a v).Inv :=
  { hs with
    msgWf := Memory.wf_write hs.msgWf a v
    msgBound := fun c hc => by
      rcases Memory.mem_write hc with rfl | hc
      · exact ha
      · exact hs.msgBound c hc }

theorem State.Inv.clearResult (hs : s.Inv) (hidle : s.phase = .idle) : s.clearResult.Inv :=
  State.inv_of_idle hidle hs.cfgWf hs.msgWf hs.msgBound nofun (.inl rfl)

theorem State.Inv.raise (hs : s.Inv) (hidle : s.phase = .idle) (e : Err) : (s.raise e).Inv :=
  State.inv_of_idle hidle hs.cfgWf hs.msgWf hs.msgBound nofun hs.padlenShape

/-- The registers a host can write are free while the block is IDLE, and so is `H`. -/
theorem State.Inv.withPlainRegisters (hs : s.Inv) (hidle : s.phase = .idle) (ae : Bool) (len blk : Dword)
    (hash : Hash) : { s with allowEmpty := ae, len := len, blk := blk, h := hash }.Inv :=
  State.inv_of_idle hidle hs.cfgWf hs.msgWf hs.msgBound hs.validClean hs.padlenShape

/-- A command that pads starts in the range of R60 item 5, because its padding fits. -/
theorem State.Inv.startPad (hs : s.Inv) (hvalid : s.valid = false) (herr : s.err = .none)
    (hfit : padLength s.len.toNat ≤ s.cfg.msgCap) {k : Opk} (hk : k ≠ .block)
    (hdigest : k = .digest → s.blk = 0 ∧ s.cfg.kromOk = true) : (s.startPad k).Inv := by
  obtain ⟨hmod, hle, hlt⟩ := padLength_shape s.len.toNat
  obtain ⟨-, -, hcap, -⟩ := hs.cfgWf
  have hpadlen : (BitVec.ofNat 64 (padLength s.len.toNat)).toNat = padLength s.len.toNat :=
    Nat.mod_eq_of_lt (hfit.trans_lt hcap)
  exact
    { hs with
      busyClean := fun _ => ⟨hvalid, herr⟩
      validClean := fun h => by simp [hvalid] at h
      padlenShape := .inr (by rw [State.startPad_padlen, hpadlen]; exact ⟨hmod, hle, hfit⟩)
      blockInside := nofun
      padRange := fun _ => ⟨le_rfl, hpadlen.symm ▸ hlt, hpadlen⟩
      padCommand := fun _ => hk
      padDigest := fun _ h => (hdigest h).1
      blockCommand := nofun
      blockDigest := nofun
      kromRunning := fun _ h => (hdigest (by cases k <;> simp_all)).2 }

/-- SCHED, WINIT and ROUND: the working state of the compressor is free while the block goes on. -/
theorem State.Inv.compressing (hs : s.Inv) (hon : s.phase.onBlock = true) {ph : Phase}
    (hph : ph.onBlock = true) (vars : Vars) (w : Words64) (i : Fin 64) (n : Nat) :
    { s with vars := vars, w := w, t := i, phase := ph, freeCount := n }.Inv :=
  have hbusy := Phase.ne_idle_of_onBlock hon
  have hnotPad : ph ≠ .pad := Phase.ne_pad_of_onBlock hph
  { hs with
    busyClean := fun _ => hs.busyClean hbusy
    blockInside := fun _ => hs.blockInside hon
    padRange := fun h => absurd h hnotPad
    padCommand := fun h => absurd h hnotPad
    padDigest := fun h => absurd h hnotPad
    blockCommand := fun _ => hs.blockCommand hon
    blockDigest := fun _ => hs.blockDigest hon
    kromRunning := fun _ => hs.kromRunning hbusy }

/-- A block that starts inside the padded message lies inside `MSG`: `PADLEN` is a multiple of 64 and at most `MSG_CAP`. -/
theorem State.Inv.block_fits (hs : s.Inv) {b : Dword} (hb : 64 * b.toNat < s.padlen.toNat) :
    64 * b.toNat + 64 ≤ s.cfg.msgCap := by
  rcases hs.padlenShape with h | ⟨hmod, -, hcap⟩
  · exact absurd h (ne_zero_of_lt_toNat hb)
  · omega

/-- The first SCHED step of a block of a `DIGEST`. -/
theorem State.Inv.startBlock (hs : s.Inv) (hbusy : s.phase ≠ .idle) (hopk : s.opk = .digest)
    (hash : Hash) {b : Dword} (hb : 64 * b.toNat < s.padlen.toNat) :
    { s with h := hash, blk := b, t := 0, phase := .sched }.Inv :=
  { hs with
    busyClean := fun _ => hs.busyClean hbusy
    blockInside := fun _ => hs.block_fits hb
    padRange := nofun
    padCommand := nofun
    padDigest := nofun
    blockCommand := fun _ => by simp [hopk]
    blockDigest := fun _ _ => hb
    kromRunning := fun _ => hs.kromRunning hbusy }

/-! ### The invariant and the commands -/

theorem State.Inv.padCommand_inv (hs : s.Inv) (hidle : s.phase = .idle) (herr : s.err = .none) :
    s.padCommand.Inv := by
  have hclear := hs.clearResult hidle
  rcases s.padCommand_cases with ⟨h, -⟩ | ⟨h, -⟩ | ⟨h, -, hfit⟩ <;> rw [h]
  · exact hclear.raise hidle .empty
  · exact hclear.raise hidle .alloc
  · exact hclear.startPad rfl herr hfit (k := .pad) nofun nofun

theorem State.Inv.blockCommand_inv (hs : s.Inv) (hidle : s.phase = .idle) (herr : s.err = .none)
    (hin : s.blockInMsg = true) : s.blockCommand.Inv := by
  rcases s.blockCommand_cases with ⟨h, -⟩ | ⟨h, hkrom⟩ <;> rw [h]
  · exact hs.raise hidle .const
  · exact
      { hs with
        busyClean := fun _ => ⟨rfl, herr⟩
        validClean := nofun
        blockInside := fun _ => of_decide_eq_true hin
        padRange := nofun
        padCommand := nofun
        padDigest := nofun
        blockCommand := nofun
        blockDigest := nofun
        kromRunning := fun _ _ => hkrom }

theorem State.Inv.digestCommand_inv (hs : s.Inv) (hidle : s.phase = .idle) (herr : s.err = .none) :
    s.digestCommand.Inv := by
  have hclear := hs.clearResult hidle
  rcases s.digestCommand_cases with ⟨h, -⟩ | ⟨hkrom, ⟨h, -⟩ | ⟨h, -⟩ | ⟨h, -, hfit⟩⟩ <;> rw [h]
  · exact hclear.raise hidle .const
  · exact hclear.raise hidle .empty
  · exact hclear.raise hidle .alloc
  · exact (hclear.withPlainRegisters hidle s.allowEmpty s.len 0 Config.iv).startPad rfl herr hfit
      (k := .digest) nofun fun _ => ⟨rfl, hkrom⟩

theorem exec_keeps_inv {i : Instr} (hs : s.Inv) (h : exec i s = .next t) : t.Inv := by
  rcases exec_cases h with rfl | ⟨hidle, ⟨-, rfl⟩ | ⟨-, rfl⟩ | ⟨herr, h⟩⟩
  · exact hs.reject
  · exact hs.respond _
  · exact (hs.raise hidle .none).respond _
  · rcases h with ⟨-, rfl⟩ | ⟨-, rfl⟩ | ⟨-, hin, rfl⟩ | ⟨-, rfl⟩
    · have hinit : { s with valid := false, h := Config.iv }.Inv :=
        State.inv_of_idle hidle hs.cfgWf hs.msgWf hs.msgBound nofun hs.padlenShape
      exact hinit.respond _
    · exact (hs.padCommand_inv hidle herr).respond _
    · exact (hs.blockCommand_inv hidle herr hin).respond _
    · exact (hs.digestCommand_inv hidle herr).respond _

theorem State.PlainWrite.keeps_inv {off : Nat} {v : Word} (hs : s.Inv) (hidle : s.phase = .idle)
    (h : s.PlainWrite off v t) : t.Inv := by
  rcases h with ⟨-, rfl⟩ | ⟨-, rfl⟩ | ⟨-, rfl⟩ | ⟨-, rfl⟩ | ⟨-, rfl⟩ <;>
    exact hs.withPlainRegisters hidle _ _ _ _

theorem hostAccess_keeps_inv {a : Access} (hs : s.Inv) (h : hostAccess s a = .next t) : t.Inv := by
  rcases hostAccess_cases h with rfl | ⟨-, -, v, rfl⟩ |
    ⟨hidle, ⟨-, -, -, -, rfl⟩ | ⟨-, -, -, ha, rfl⟩ | ⟨-, -, -, u, hu, rfl⟩ | ⟨-, -, -, -, i, -, h⟩⟩
  · exact hs.reject
  · exact hs.respond _
  · exact (hs.respond _).countRead
  · exact (hs.writeMsg ha _).respond _
  · exact (hu.keeps_inv hs hidle).respond _
  · exact exec_keeps_inv hs h

/-! ### The invariant and the engine's steps -/

/-- After the last PADBYTE a `PAD` is over, and a `DIGEST` starts its first block, which is block 0. -/
theorem State.Inv.padDone (hs : s.Inv) (hph : s.phase = .pad) : s.padDone.Inv := by
  cases hopk : s.opk with
  | pad =>
    have heq : s.padDone = { s with phase := .idle } := by simp [State.padDone, hopk]
    rw [heq]
    exact State.inv_of_idle rfl hs.cfgWf hs.msgWf hs.msgBound hs.validClean hs.padlenShape
  | block => exact absurd hopk (hs.padCommand hph)
  | digest =>
    have heq : s.padDone = { s with t := 0, phase := .sched } := by simp [State.padDone, hopk]
    have hfirst : 64 * s.blk.toNat < s.padlen.toNat := by
      obtain ⟨-, hp, -⟩ := hs.padRange hph
      simp [hs.padDigest hph hopk, Nat.zero_lt_of_lt hp]
    rw [heq]
    exact hs.startBlock (by simp [hph]) hopk s.h hfirst

theorem padByteStep_keeps_inv (hs : s.Inv) (hph : s.phase = .pad) (h : padByteStep s = .next t) :
    t.Inv := by
  obtain ⟨hlen, hp, hpadlen⟩ := hs.padRange hph
  obtain ⟨-, -, -, hcap, h⟩ := padByteStep_cases h
  have hw := hs.writeMsg hcap (padByte s.len.toNat s.p.toNat)
  rcases h with ⟨hmore, rfl⟩ | ⟨-, rfl⟩
  · have hp1 : (s.p + 1).toNat = s.p.toNat + 1 := toNat_add_one_of_lt hp
    exact
      { hw with
        padRange := fun _ => ⟨hp1 ▸ hlen.trans (Nat.le_succ _), hp1 ▸ hmore, hpadlen⟩ }
  · exact hw.padDone hph

theorem addStep_keeps_inv (hs : s.Inv) (hph : s.phase = .add) (h : addStep s = .next t) : t.Inv := by
  have hbusy : s.phase ≠ .idle := by simp [hph]
  have hon : s.phase.onBlock = true := by simp [hph, Phase.onBlock]
  obtain ⟨hvalid, herr⟩ := hs.busyClean hbusy
  rcases addStep_cases h with ⟨hopk, hmore, rfl⟩ | ⟨-, rfl⟩
  · exact hs.startBlock hbusy hopk _ hmore
  · refine State.inv_of_idle rfl hs.cfgWf hs.msgWf hs.msgBound (fun hv => ?_) hs.padlenShape
    have hopk : s.opk = .digest := by simpa [hvalid] using hv
    exact ⟨herr, ne_zero_of_lt_toNat (hs.blockDigest hon hopk)⟩

theorem engineStep_keeps_inv (hs : s.Inv) (h : engineStep s = .next t) : t.Inv := by
  rcases engineStep_cases_by_kind h with ⟨-, rfl⟩ | ⟨hph, h⟩ | ⟨hon, hon', heq⟩ | ⟨hph, h⟩
  · exact hs
  · exact padByteStep_keeps_inv hs hph h
  · rw [heq]
    exact hs.compressing hon hon' _ _ _ _
  · exact addStep_keeps_inv hs hph h

/-! ### What changes `H` (R26) -/

theorem State.padCommand_h (s : State) : s.padCommand.h = s.h := by
  rcases s.padCommand_cases with ⟨h, -⟩ | ⟨h, -⟩ | ⟨h, -⟩ <;> rw [h]

theorem State.blockCommand_h (s : State) : s.blockCommand.h = s.h := by
  rcases s.blockCommand_cases with ⟨h, -⟩ | ⟨h, -⟩ <;> rw [h]

theorem State.digestCommand_h (s : State) :
    s.digestCommand.h = s.h ∨ s.digestCommand.h = Config.iv := by
  rcases s.digestCommand_cases with ⟨h, -⟩ | ⟨-, ⟨h, -⟩ | ⟨h, -⟩ | ⟨h, -⟩⟩ <;> simp [h]

/-- `INIT` and `DIGEST` load `IV`, or `H` stays. -/
theorem exec_h {i : Instr} (h : exec i s = .next t) :
    t.h = s.h ∨ (t.h = Config.iv ∧ s.err = .none ∧ (i = .init ∨ i = .digest)) := by
  rcases exec_cases h with rfl | ⟨-, ⟨-, rfl⟩ | ⟨-, rfl⟩ | ⟨herr, h⟩⟩
  · exact .inl rfl
  · exact .inl rfl
  · exact .inl rfl
  · rcases h with ⟨hi, rfl⟩ | ⟨-, rfl⟩ | ⟨-, -, rfl⟩ | ⟨hi, rfl⟩
    · exact .inr ⟨rfl, herr, .inl hi⟩
    · exact .inl s.padCommand_h
    · exact .inl s.blockCommand_h
    · exact s.digestCommand_h.imp_right fun h => ⟨h, herr, .inr hi⟩

/-- The add-back is the engine's only write to `H`. -/
theorem engineStep_h (h : engineStep s = .next t) :
    t.h = s.h ∨ (s.phase = .add ∧ t.h = addBack s.h s.vars) := by
  rcases engineStep_cases_by_kind h with ⟨-, rfl⟩ | ⟨-, h⟩ | ⟨-, -, heq⟩ | ⟨hph, h⟩
  · exact .inl rfl
  · obtain ⟨-, -, -, -, ⟨-, rfl⟩ | ⟨-, rfl⟩⟩ := padByteStep_cases h
    · exact .inl rfl
    · exact .inl (State.padDone_h _)
  · exact .inl (by rw [heq])
  · rcases addStep_cases h with ⟨-, -, rfl⟩ | ⟨-, rfl⟩
    · exact .inr ⟨hph, rfl⟩
    · exact .inr ⟨hph, rfl⟩

/-! ### What changes `VALID` (R38) -/

theorem State.padCommand_valid (s : State) : s.padCommand.valid = false := by
  rcases s.padCommand_cases with ⟨h, -⟩ | ⟨h, -⟩ | ⟨h, -⟩ <;> rw [h]

theorem State.blockCommand_valid (s : State) : s.blockCommand.valid = false := by
  rcases s.blockCommand_cases with ⟨h, -⟩ | ⟨h, -⟩ <;> rw [h]

theorem State.digestCommand_valid (s : State) : s.digestCommand.valid = false := by
  rcases s.digestCommand_cases with ⟨h, -⟩ | ⟨-, ⟨h, -⟩ | ⟨h, -⟩ | ⟨h, -⟩⟩ <;> rw [h]

/-- A command that leaves `VALID` = 1 is a `NOP` or was rejected. -/
theorem exec_of_valid {i : Instr} (h : exec i s = .next t) (hv : t.valid = true) :
    ∃ r, t = s.respond r := by
  rcases exec_cases h with rfl | ⟨-, ⟨-, rfl⟩ | ⟨-, rfl⟩ | ⟨-, h⟩⟩
  · exact ⟨_, rfl⟩
  · exact ⟨_, rfl⟩
  · cases hv
  · rcases h with ⟨-, rfl⟩ | ⟨-, rfl⟩ | ⟨-, -, rfl⟩ | ⟨-, rfl⟩
    · cases hv
    · cases s.padCommand_valid.symm.trans hv
    · cases s.blockCommand_valid.symm.trans hv
    · cases s.digestCommand_valid.symm.trans hv

/-- An access after which `VALID` is 1 found it 1, kept `PADLEN`, and wrote `BLK` at most through its own offsets. -/
theorem hostAccess_of_valid {a : Access} (h : hostAccess s a = .next t) (hv : t.valid = true) :
    s.valid = true ∧ t.padlen = s.padlen ∧
      (t.blk = s.blk ∨ a.space = .reg ∧ a.dir = .write ∧ (a.addr = 0x040 ∨ a.addr = 0x044)) := by
  rcases hostAccess_command_or_frame h with ⟨-, -, i, -, h⟩ | ⟨heq, hblk⟩
  · obtain ⟨r, rfl⟩ := exec_of_valid h hv
    exact ⟨hv, rfl, .inl rfl⟩
  · exact ⟨by rwa [heq] at hv, by rw [heq], hblk⟩

/-- The engine sets `VALID` at the end of a `DIGEST` only. -/
theorem engineStep_sets_valid (h : engineStep s = .next t) (h0 : s.valid = false)
    (h1 : t.valid = true) :
    s.phase = .add ∧ s.opk = .digest ∧ ¬ 64 * (s.blk + 1).toNat < s.padlen.toNat ∧
      t = { s with h := addBack s.h s.vars, blk := s.blk + 1, phase := .idle, valid := true } := by
  have hkept : t.valid ≠ s.valid := by simp [h0, h1]
  rcases engineStep_cases_by_kind h with ⟨-, rfl⟩ | ⟨-, h⟩ | ⟨-, -, heq⟩ | ⟨hph, h⟩
  · exact absurd rfl hkept
  · obtain ⟨-, -, -, -, ⟨-, rfl⟩ | ⟨-, rfl⟩⟩ := padByteStep_cases h
    · exact absurd rfl hkept
    · exact absurd (State.padDone_valid _) hkept
  · exact absurd (by rw [heq]) hkept
  · rcases addStep_cases h with ⟨-, -, rfl⟩ | ⟨hlast, rfl⟩
    · exact absurd rfl hkept
    · have hopk : s.opk = .digest := by simpa [h0] using h1
      exact ⟨hph, hopk, fun hlt => hlast ⟨hopk, hlt⟩, by simp [hopk]⟩

/-- A running `DIGEST` that has no block left after this one has compressed exactly `PADLEN / 64` blocks. -/
theorem State.Inv.last_block (hs : s.Inv) (hon : s.phase.onBlock = true) (hopk : s.opk = .digest)
    (hlast : ¬ 64 * (s.blk + 1).toNat < s.padlen.toNat) :
    64 * (s.blk + 1).toNat = s.padlen.toNat := by
  have hlt := hs.blockDigest hon hopk
  have hsucc : (s.blk + 1).toNat = s.blk.toNat + 1 := toNat_add_one_of_lt (n := s.padlen) (by omega)
  rcases hs.padlenShape with h | ⟨hmod, -, -⟩
  · exact absurd h (ne_zero_of_lt_toNat hlt)
  · omega

/-! ### What changes `PHASE` (R40, R198) -/

/-- `PHASE` after a command: as before, or the first phase of the command. -/
theorem exec_phase {i : Instr} (h : exec i s = .next t) :
    t.phase = s.phase ∨
    (s.err = .none ∧
      ((i = .pad ∧ t.phase = .pad ∧ t.opk = .pad) ∨
       (i = .digest ∧ t.phase = .pad ∧ t.opk = .digest) ∨
       (i = .block ∧ t.phase = .sched ∧ t.opk = .block))) := by
  rcases exec_cases h with rfl | ⟨-, ⟨-, rfl⟩ | ⟨-, rfl⟩ | ⟨herr, h⟩⟩
  · exact .inl rfl
  · exact .inl rfl
  · exact .inl rfl
  · rcases h with ⟨-, rfl⟩ | ⟨hi, rfl⟩ | ⟨hi, -, rfl⟩ | ⟨hi, rfl⟩
    · exact .inl rfl
    · rcases s.padCommand_cases with ⟨h, -⟩ | ⟨h, -⟩ | ⟨h, -⟩ <;> simp [h, hi, herr]
    · rcases s.blockCommand_cases with ⟨h, -⟩ | ⟨h, -⟩ <;> simp [h, hi, herr]
    · rcases s.digestCommand_cases with ⟨h, -⟩ | ⟨-, ⟨h, -⟩ | ⟨h, -⟩ | ⟨h, -⟩⟩ <;>
        simp [h, hi, herr]

/-- Where the engine returns to IDLE. -/
theorem engineStep_returns (hs : s.Inv) (h : engineStep s = .next t) (hbusy : s.phase ≠ .idle)
    (hidle : t.phase = .idle) :
    (s.phase = .pad ∧ s.opk = .pad ∧ s.p.toNat + 1 = s.padlen.toNat) ∨
    (s.phase = .add ∧ s.opk ≠ .pad ∧
      ¬ (s.opk = .digest ∧ 64 * (s.blk.toNat + 1) < s.padlen.toNat)) := by
  rcases engineStep_cases_by_kind h with ⟨hph, -⟩ | ⟨hph, h⟩ | ⟨-, hon, -⟩ | ⟨hph, h⟩
  · exact absurd hph hbusy
  · obtain ⟨-, hp, -⟩ := hs.padRange hph
    obtain ⟨-, -, -, -, ⟨-, rfl⟩ | ⟨hlast, rfl⟩⟩ := padByteStep_cases h
    · exact absurd hidle hbusy
    · have hopk : s.opk = .pad := by
        by_contra hne
        simp [State.padDone_phase, hne] at hidle
      exact .inl ⟨hph, hopk, by omega⟩
  · exact absurd hidle (Phase.ne_idle_of_onBlock hon)
  · have hon : s.phase.onBlock = true := by simp [hph, Phase.onBlock]
    rcases addStep_cases h with ⟨-, -, rfl⟩ | ⟨hlast, -⟩
    · cases hidle
    · refine .inr ⟨hph, hs.blockCommand hon, fun ⟨hopk, hlt⟩ => hlast ⟨hopk, ?_⟩⟩
      rwa [toNat_add_one_of_lt (n := s.padlen) (by omega)]

/-! ### The obligations -/

/-- Settles O33: each event keeps the invariant, the engine's step, the host's access and the reset. -/
theorem invariantIsKeptByEveryStep : Obligations.InvariantIsKeptByEveryStep := by
  intro s t hs h
  have hown (evs : List Event) : { s with events := evs }.Inv :=
    hs.withOwnFields evs s.resp s.freeCount
  rcases step_cases_by_kind h with ⟨evs, -, h⟩ | ⟨a, rest, -, h⟩ | ⟨rest, -, rfl⟩
  · exact engineStep_keeps_inv (hown evs) h
  · exact hostAccess_keeps_inv (hown rest) h
  · exact (hown rest).resetEvent

/-- Settles O8: `Reg.ofOffset` and `Reg.offset` are inverse in both directions. -/
theorem registerMapIsOneToOne : Obligations.RegisterMapIsOneToOne :=
  fun r _ => ⟨eq_offset_of_ofOffset, fun h => h ▸ ofOffset_offset r⟩

/-- Settles O17: the fields of the word as a sum; then a busy state has no flag set, and `VALID` excludes an error. -/
theorem statusWordValues : Obligations.StatusWordValues := by
  refine ⟨State.statusWord_toNat, fun s hs => ?_⟩
  have hword : s.statusWord = BitVec.ofNat 32 s.statusWord.toNat := by simp
  rw [hword, State.statusWord_toNat]
  by_cases hidle : s.phase = .idle
  · cases hvalid : s.valid with
    | true => simp [hidle, (hs.validClean hvalid).1, Err.code]
    | false => cases s.err <;> simp [hidle, Err.code]
  · obtain ⟨hvalid, herr⟩ := hs.busyClean hidle
    simp [hidle, hvalid, herr, Err.code]

/-- Settles O35: `H` changes at the engine's add-back, at a command that loads `IV`, and at a reset. -/
theorem hashStateIsWrittenOnlyBy : Obligations.HashStateIsWrittenOnlyBy := by
  intro s t h hne
  rcases step_cases_by_kind h with ⟨evs, hev, h⟩ | ⟨a, rest, hev, h⟩ | ⟨rest, hev, rfl⟩
  · rcases engineStep_h h with heq | ⟨hph, heq⟩
    · exact absurd heq hne
    · exact .inl ⟨hph, heq, hev⟩
  · rcases hostAccess_command_or_frame h with ⟨hidle, ha, i, hdec, h⟩ | ⟨heq, -⟩
    · rcases exec_h h with heq | ⟨heq, herr, hi⟩
      · exact absurd heq hne
      · refine .inr ⟨heq, .inr ⟨a, rest, hev, hidle, herr, ?_⟩⟩
        rw [ha]
        rcases hi with rfl | rfl
        · exact ⟨rfl, rfl, rfl, rfl, .inl hdec⟩
        · exact ⟨rfl, rfl, rfl, rfl, .inr hdec⟩
    · exact absurd (by rw [heq]) hne
  · exact .inr ⟨rfl, .inl ⟨rest, hev⟩⟩

/-- Settles O36: no access and no reset sets `VALID`, and the add-back that sets it is the one of the last block; with
`VALID` = 1 the block is IDLE, where only the host moves `BLK` or `PADLEN`. -/
theorem validIsSetOnlyByTheLastAdd : Obligations.ValidIsSetOnlyByTheLastAdd := by
  refine ⟨fun s t hs h h0 h1 => ?_, fun s t hs h1 hblk h ht hnot => ?_⟩
  · rcases step_cases_by_kind h with ⟨evs, -, h⟩ | ⟨a, rest, -, h⟩ | ⟨rest, -, rfl⟩
    · obtain ⟨hph, hopk, hlast, rfl⟩ := engineStep_sets_valid h h0 h1
      have hon : s.phase.onBlock = true := congrArg Phase.onBlock hph
      exact ⟨hph, hopk, rfl, rfl, hs.last_block hon hopk hlast⟩
    · cases h0.symm.trans (hostAccess_of_valid h h1).1
    · cases h1
  · rcases step_cases_by_kind h with ⟨evs, -, h⟩ | ⟨a, rest, hev, h⟩ | ⟨rest, -, rfl⟩
    · have hidle : s.phase = .idle := by
        by_contra hbusy
        cases h1.symm.trans (hs.busyClean hbusy).1
      obtain rfl : t = { s with events := evs } := by simpa [engineStep, hidle, eq_comm] using h
      exact hblk
    · obtain ⟨-, hpadlen, hblkWrite⟩ := hostAccess_of_valid h ht
      have hkept : t.blk = s.blk := hblkWrite.resolve_right (hnot a rest hev)
      rw [hkept, hpadlen, hblk]
    · cases ht

/-- Settles O40: only an accepted command leaves IDLE, and only the engine or a reset returns to it. -/
theorem phaseLeavesAndReturnsPerTheTable : Obligations.PhaseLeavesAndReturnsPerTheTable := by
  intro s t hs h
  rcases step_cases_by_kind h with ⟨evs, -, h⟩ | ⟨a, rest, hev, h⟩ | ⟨rest, hev, rfl⟩
  · have hs' : { s with events := evs }.Inv := hs.withOwnFields evs s.resp s.freeCount
    have hreturns := engineStep_returns hs' h
    refine ⟨fun hidle hbusy => ?_, fun hbusy hidle => .inr (hreturns hbusy hidle)⟩
    obtain rfl : t = { s with events := evs } := by simpa [engineStep, hidle, eq_comm] using h
    exact absurd hidle hbusy
  · rcases hostAccess_command_or_frame h with ⟨hidle, ha, i, hdec, h⟩ | ⟨heq, -⟩
    · refine ⟨fun _ hbusy => ?_, fun hbusy _ => absurd hidle hbusy⟩
      rcases exec_phase h with heq | ⟨herr, hstart⟩
      · exact absurd (heq.trans hidle) hbusy
      · refine ⟨a.data, rest, by rw [hev, ← ha], herr, ?_⟩
        rcases hstart with ⟨rfl, hto⟩ | ⟨rfl, hto⟩ | ⟨rfl, hto⟩
        · exact .inl ⟨hdec, hto⟩
        · exact .inr (.inl ⟨hdec, hto⟩)
        · exact .inr (.inr ⟨hdec, hto⟩)
    · have hph : t.phase = s.phase := by rw [heq]
      exact ⟨fun hidle hbusy => absurd (hph.trans hidle) hbusy,
        fun hbusy hidle => absurd (hph.symm.trans hidle) hbusy⟩
  · exact ⟨fun _ hbusy => absurd rfl hbusy, fun _ _ => .inl ⟨rest, hev⟩⟩

/-- Settles O30: the values are those of `State.resetOf`, and the reset event is the step. -/
theorem resetLeavesTheSpecsValues : Obligations.ResetLeavesTheSpecsValues := by
  refine ⟨⟨rfl, rfl, rfl, rfl, rfl, rfl, rfl, rfl, by decide⟩, fun s rest hev => ?_⟩
  exact ⟨_, step_of_event hev, rfl, rfl, rfl, rfl, rfl, rfl, rfl, rfl, rfl⟩

/-- Settles O32: `State.reset` is the reset of `Config.default`, whose parameters are in their ranges. -/
theorem invariantHoldsAtReset : Obligations.InvariantHoldsAtReset :=
  ⟨State.inv_resetOf (by decide), fun _ => State.inv_resetOf⟩

end Sys2Proof.Machine
end

section
/-! Family 20_memory: what a host access leaves unchanged (R80), what changes a byte of `MSG` (R81), and the order of the
events (R82). -/

namespace Sys2Proof.Machine

variable {s t : State}

/-! ### Reads and writes at the port (R80) -/

theorem hostAccess_read_frame {a : Access} (h : hostAccess s a = .next t) (hdir : a.dir = .read) :
    t = { s with resp := t.resp, freeCount := t.freeCount } := by
  cases hsp : a.space with
  | reg =>
    obtain rfl : regRead s a.addr a.size = t := by simpa [hostAccess, hsp, hdir] using h
    rcases regRead_cases s a.addr a.size with heq | ⟨v, heq⟩ <;> rw [heq] <;> rfl
  | msg =>
    obtain rfl : msgRead s a.addr a.size = t := by simpa [hostAccess, hsp, hdir] using h
    rcases msgRead_cases s a.addr a.size with heq | ⟨-, -, -, heq⟩ <;> rw [heq] <;> rfl

theorem hostAccess_msg_write_frame {a : Access} (h : hostAccess s a = .next t)
    (hdir : a.dir = .write) (hsp : a.space = .msg) :
    t = { s with msg := t.msg, resp := t.resp } ∧
      ∀ b, b ≠ a.addr → t.msg.read b = s.msg.read b := by
  obtain rfl : msgWrite s a.addr a.size (BitVec.ofNat 8 a.data) = t := by
    simpa [hostAccess, hsp, hdir] using h
  rcases msgWrite_cases s a.addr a.size (BitVec.ofNat 8 a.data) with heq | ⟨-, -, -, heq⟩ <;> rw [heq]
  · exact ⟨rfl, fun _ _ => rfl⟩
  · exact ⟨rfl, fun _ hb => Memory.read_write_other s.msg _ hb⟩

/-- Outside `CMD` a register write is rejected, or it is the plain write of its offset. -/
theorem hostAccess_reg_write_cases {a : Access} (h : hostAccess s a = .next t)
    (hdir : a.dir = .write) (hsp : a.space = .reg) (hcmd : a.addr ≠ 0x004) :
    t = s.reject ∨ ∃ u, s.PlainWrite a.addr (BitVec.ofNat 32 a.data) u ∧ t = u.respond .okay := by
  have hw : regWrite s a.addr a.size (BitVec.ofNat 32 a.data) = .next t := by
    simpa [hostAccess, hsp, hdir] using h
  rcases regWrite_cases hw with hrej | ⟨-, -, hplain⟩ | ⟨-, -, haddr, -⟩
  · exact .inl hrej
  · exact .inr hplain
  · exact absurd haddr hcmd

/-! ### What changes `MSG` (R81) -/

/-- A write changes what an address reads as only if it is the address written, and leaves the value written there. -/
theorem Memory.eq_of_read_write_ne {m : Memory} {a b : Nat} {v : Byte}
    (h : (m.write b v).read a ≠ m.read a) : a = b ∧ (m.write b v).read a = some v := by
  obtain rfl : a = b := by
    by_contra hab
    exact h (Memory.read_write_other m v hab)
  exact ⟨rfl, Memory.read_write_same m a v⟩

theorem State.padCommand_msg (s : State) : s.padCommand.msg = s.msg := by
  rcases s.padCommand_cases with ⟨h, -⟩ | ⟨h, -⟩ | ⟨h, -⟩ <;> rw [h]

theorem State.blockCommand_msg (s : State) : s.blockCommand.msg = s.msg := by
  rcases s.blockCommand_cases with ⟨h, -⟩ | ⟨h, -⟩ <;> rw [h]

theorem State.digestCommand_msg (s : State) : s.digestCommand.msg = s.msg := by
  rcases s.digestCommand_cases with ⟨h, -⟩ | ⟨-, ⟨h, -⟩ | ⟨h, -⟩ | ⟨h, -⟩⟩ <;> rw [h]

/-- No command writes `MSG` at its acceptance; a padding is written by the engine's steps. -/
theorem exec_msg {i : Instr} (h : exec i s = .next t) : t.msg = s.msg := by
  rcases exec_cases h with rfl | ⟨-, ⟨-, rfl⟩ | ⟨-, rfl⟩ | ⟨-, h⟩⟩
  · rfl
  · rfl
  · rfl
  · rcases h with ⟨-, rfl⟩ | ⟨-, rfl⟩ | ⟨-, -, rfl⟩ | ⟨-, rfl⟩
    · rfl
    · exact s.padCommand_msg
    · exact s.blockCommand_msg
    · exact s.digestCommand_msg

theorem State.PlainWrite.msg_eq {off : Nat} {v : Word} (h : s.PlainWrite off v t) :
    t.msg = s.msg := by
  rcases h with ⟨-, rfl⟩ | ⟨-, rfl⟩ | ⟨-, rfl⟩ | ⟨-, rfl⟩ | ⟨-, rfl⟩ <;> rfl

/-- The accepted byte write is the only access that reaches `MSG`. -/
theorem hostAccess_msg {a : Access} (h : hostAccess s a = .next t) :
    t.msg = s.msg ∨
    (s.phase = .idle ∧ a = ⟨.msg, .write, a.addr, 1, a.data⟩ ∧
      t.msg = s.msg.write a.addr (BitVec.ofNat 8 a.data)) := by
  rcases hostAccess_cases h with rfl | ⟨-, -, v, rfl⟩ |
    ⟨hidle, ⟨-, -, -, -, rfl⟩ | ⟨hsp, hdir, hsize, -, rfl⟩ | ⟨-, -, -, u, hu, rfl⟩ |
      ⟨-, -, -, -, i, -, hexec⟩⟩
  · exact .inl rfl
  · exact .inl rfl
  · exact .inl rfl
  · exact .inr ⟨hidle, by rw [← hsp, ← hdir, ← hsize], rfl⟩
  · exact .inl hu.msg_eq
  · exact .inl (exec_msg hexec)

/-- PADBYTE is the only engine step that reaches `MSG`. -/
theorem engineStep_msg (h : engineStep s = .next t) :
    t.msg = s.msg ∨
    (s.phase = .pad ∧ t.msg = s.msg.write s.p.toNat (padByte s.len.toNat s.p.toNat)) := by
  rcases engineStep_cases_by_kind h with ⟨-, rfl⟩ | ⟨hph, h⟩ | ⟨-, -, heq⟩ | ⟨-, h⟩
  · exact .inl rfl
  · obtain ⟨-, -, -, -, ⟨-, rfl⟩ | ⟨-, rfl⟩⟩ := padByteStep_cases h
    · exact .inr ⟨hph, rfl⟩
    · exact .inr ⟨hph, State.padDone_msg _⟩
  · exact .inl (by rw [heq])
  · rcases addStep_cases h with ⟨-, -, rfl⟩ | ⟨-, rfl⟩ <;> exact .inl rfl

/-! ### The engine at rest (R267) -/

theorem engineStep_of_idle (h : s.phase = .idle) : engineStep s = .next s := by
  simp [engineStep, h]

/-! ### The obligations -/

/-- Settles O16: a read touches the response and the counter, a byte write its own address, and a register write outside
`CMD` is the plain write of its offset, which replaces one register or one half. -/
theorem accessesHaveNoSideEffects : Obligations.AccessesHaveNoSideEffects := by
  intro s t a h
  refine ⟨hostAccess_read_frame h, hostAccess_msg_write_frame h, fun hdir hsp => ?_⟩
  by_cases hcmd : a.addr = 0x004 -- none of the clauses speaks of `CMD`
  · simp [hcmd]
  · rcases hostAccess_reg_write_cases h hdir hsp hcmd with rfl | ⟨u, hu, rfl⟩
    · exact ⟨fun _ => rfl, fun _ => ⟨rfl, rfl⟩, fun _ => ⟨rfl, rfl⟩, fun _ => ⟨rfl, rfl⟩,
        fun _ => ⟨rfl, rfl⟩, fun _ => rfl⟩
    · rcases hu with ⟨ha, rfl⟩ | ⟨ha, rfl⟩ | ⟨ha, rfl⟩ | ⟨ha, rfl⟩ | ⟨ha, rfl⟩ <;>
        simp [ha, State.respond, setLowHalf_high, setHighHalf_low, -Nat.reducePow]

/-- Settles O39: `MSG` is written by PADBYTE, whose `p` the invariant keeps in `LEN .. PADLEN-1`, and by the host's byte
write; each changes only the address it writes. -/
theorem messageBytesChangeOnlyBy : Obligations.MessageBytesChangeOnlyBy := by
  intro s t a hs h hne
  rcases step_cases_by_kind h with ⟨evs, -, h⟩ | ⟨acc, rest, hev, h⟩ | ⟨rest, hev, -⟩
  · rcases engineStep_msg h with heq | ⟨hph, heq⟩
    · exact absurd (by rw [heq]) hne
    · rw [heq] at hne ⊢
      obtain ⟨rfl, hread⟩ := Memory.eq_of_read_write_ne hne
      obtain ⟨hlen, hpadlen, -⟩ := hs.padRange hph
      exact .inr (.inl ⟨hph, rfl, hlen, hpadlen, hread⟩)
  · rcases hostAccess_msg h with heq | ⟨hidle, hacc, heq⟩
    · exact absurd (by rw [heq]) hne
    · rw [heq] at hne ⊢
      obtain ⟨rfl, hread⟩ := Memory.eq_of_read_write_ne hne
      exact .inr (.inr ⟨hidle, acc.data, rest, by rw [hev, ← hacc], hread⟩)
  · exact .inl ⟨rest, hev⟩

/-- Settles O29: with no event listed the step is the engine's, which IDLE keeps still; else it is the first event's. -/
theorem stepTakesEventsInOrder : Obligations.StepTakesEventsInOrder :=
  fun _ => ⟨step_of_no_events, engineStep_of_idle, fun _ => step_of_event, fun _ _ => step_of_event,
    fun _ => step_of_event⟩

end Sys2Proof.Machine
end

section
/-! Family 30_encoding: the fields of a command word, the decoder as the inverse of the encoder (R100 to R102), the opcode
table (R112), and what a write to `CMD` does with an illegal word. -/

namespace Sys2Proof.Machine

/-! ### The fields of a command word (R100) -/

theorem zeroField_append_opField (w : Word) : zeroField w ++ opField w = w := by
  have hw := w.isLt
  apply BitVec.eq_of_toNat_eq
  rw [append_toNat, opField_toNat]
  simp only [zeroField, BitVec.extractLsb'_toNat, Nat.shiftRight_eq_div_pow]
  omega

theorem tableEncoding (i : Instr) : Laws.TableEncoding.Statement i := by
  cases i with
  | nop => exact Laws.TableEncoding.nop
  | init => exact Laws.TableEncoding.init
  | pad => exact Laws.TableEncoding.pad
  | block => exact Laws.TableEncoding.block
  | digest => exact Laws.TableEncoding.digest
  | clear => exact Laws.TableEncoding.clear

/-- The two fields determine the word, so a command's word is the one with its fields. -/
theorem eq_encode_iff (w : Word) (i : Instr) : w = encode i ↔ zeroField w = 0 ∧ opField w = opOf i := by
  constructor
  · rintro rfl
    obtain ⟨hzero, hop, -⟩ := tableEncoding i
    exact ⟨hzero, hop⟩
  · rintro ⟨hzero, hop⟩
    rw [← zeroField_append_opField w, hzero, hop, encode]

/-! ### The decoder (R101, R102) -/

theorem instrOfOp_opOf (i : Instr) : instrOfOp (opOf i) = some i := by
  cases i <;> rfl

theorem instrOfOp_eq_some_iff (op : BitVec 4) (i : Instr) : instrOfOp op = some i ↔ op = opOf i := by
  refine ⟨fun h => ?_, fun h => h ▸ instrOfOp_opOf i⟩
  apply BitVec.eq_of_toNat_eq
  unfold instrOfOp at h
  split at h <;> cases h <;> assumption

theorem decode_eq_ok_iff (w : Word) (i : Instr) :
    decode w = .ok i ↔ zeroField w = 0 ∧ opField w = opOf i := by
  rw [← instrOfOp_eq_some_iff, decode]
  by_cases hzero : zeroField w = 0
  · rw [if_neg (not_not_intro hzero)]
    cases instrOfOp (opField w) <;> simp [hzero]
  · rw [if_pos hzero]
    simp only [hzero, false_and, reduceCtorEq]

/-- A word whose fields are out of R101's ranges is no command's. -/
theorem decode_ne_ok_of_illegal {w : Word} (hw : 6 ≤ w.toNat % 16 ∨ w.toNat / 16 ≠ 0) (i : Instr) :
    decode w ≠ .ok i := by
  intro h
  obtain ⟨hzero, hop⟩ := (decode_eq_ok_iff w i).1 h
  obtain ⟨-, -, hle, -⟩ := tableEncoding i
  rw [zeroField_eq_zero] at hzero
  rw [← hop, opField_toNat] at hle
  omega

/-! ### The opcode table (R112) -/

/-- Each row is an exact match of its command's word. -/
theorem opcodeTable_rows : ∀ r ∈ opcodeTable, r.mask = BitVec.allOnes 32 ∧ r.pattern = encode r.instr := by
  decide

theorem tableLookup_eq_some_iff (w : Word) (i : Instr) : tableLookup w = some i ↔ w = encode i := by
  constructor
  · intro h
    obtain ⟨r, hfind, rfl⟩ := Option.map_eq_some_iff.1 h
    obtain ⟨hmask, hpattern⟩ := opcodeTable_rows r (List.mem_of_find?_eq_some hfind)
    have hmatch : w &&& r.mask = r.pattern := by simpa using List.find?_some hfind
    rwa [hmask, BitVec.and_allOnes, hpattern] at hmatch
  · rintro rfl
    obtain ⟨-, -, -, hlookup, -⟩ := tableEncoding i
    exact hlookup

/-! ### The write of a word to `CMD` (R217) -/

/-- The shape checks pass for every word, so what remains is the busy check and the command procedure. -/
theorem hostAccess_command (s : State) (w : Word) :
    hostAccess s (Access.command w) = if s.busy then .next s.reject else commandWrite s w := by
  have hdata : BitVec.ofNat 32 w.toNat = w := by simp
  change regWrite s 0x004 4 (BitVec.ofNat 32 w.toNat) = _
  rw [hdata]
  rfl

theorem commandWrite_of_illegal (s : State) {w : Word} (hw : ∀ i, decode w ≠ .ok i) :
    commandWrite s w = .next s.reject := by
  unfold commandWrite
  split
  · rename_i i hi
    exact absurd hi (hw i)
  · rfl

/-! ### The obligations -/

/-- Settles O5: both sides say that `ZERO` is 0 and `OP` is the command's opcode. -/
theorem decodeIffEncode : Obligations.DecodeIffEncode :=
  fun w i => (decode_eq_ok_iff w i).trans (eq_encode_iff w i).symm

/-- Settles O6: the word fails the decoder whether or not the port is busy, and both outcomes are the rejection; no alias,
because a command has one encoding. -/
theorem illegalWordsAreRejected : Obligations.IllegalWordsAreRejected := by
  refine ⟨fun s w hw => ?_, fun w v i hdw hdv => ?_⟩
  · rw [hostAccess_command, commandWrite_of_illegal s (decode_ne_ok_of_illegal hw), ite_self]
    rfl
  · exact ((decodeIffEncode w i).1 hdw).trans ((decodeIffEncode v i).1 hdv).symm

/-- Settles O7: the decoder and the table both give `i` exactly for the word `encode i`. -/
theorem decoderIsTheOpcodeTable : Obligations.DecoderIsTheOpcodeTable := by
  intro w
  have hok (i : Instr) : (decode w).toOption = some i ↔ decode w = .ok i := by
    cases decode w <;> simp [Except.toOption]
  ext i
  rw [hok, decodeIffEncode, tableLookup_eq_some_iff]

/-- Settles O4: each of the six words is its command's encoding. -/
theorem commandWordsDecode : Obligations.CommandWordsDecode := by
  have hdecode (i : Instr) : decode (encode i) = .ok i := (decodeIffEncode _ i).2 rfl
  exact ⟨hdecode .nop, hdecode .init, hdecode .pad, hdecode .block, hdecode .digest, hdecode .clear⟩

end Sys2Proof.Machine
end

section
/-! Family 40_round_constant_rom: the trial sieve behind the ROM's primes (R126), and the cube-root rule for its words
(R127). -/

namespace Sys2Proof.Machine

/-! ### The trial sieve (R126) -/

theorem noDivisorUpTo_eq_true_iff (p n : Nat) :
    noDivisorUpTo p n = true ↔ ∀ m, 2 ≤ m → m ≤ n → ¬ m ∣ p := by
  induction n with
  | zero => exact iff_of_true rfl fun m hm hm0 => by omega
  | succ n ih =>
    have hhead : (n + 1 < 2 || p % (n + 1) ≠ 0) = true ↔ (2 ≤ n + 1 → ¬ n + 1 ∣ p) := by
      simp [Nat.dvd_iff_mod_eq_zero, or_iff_not_imp_left, Nat.one_le_iff_ne_zero]
    rw [noDivisorUpTo, Bool.and_eq_true, ih, hhead]
    constructor
    · rintro ⟨hlast, hbelow⟩ m hm hmn
      obtain hlt | rfl := Nat.lt_or_eq_of_le hmn
      · exact hbelow m hm (Nat.le_of_lt_succ hlt)
      · exact hlast hm
    · intro h
      exact ⟨fun h2 => h (n + 1) h2 le_rfl, fun m hm hmn => h m hm (Nat.le_succ_of_le hmn)⟩

theorem isPrimeByTrial_eq_true_iff (p : Nat) : isPrimeByTrial p = true ↔ p.Prime := by
  rw [isPrimeByTrial, Bool.and_eq_true, decide_eq_true_iff, noDivisorUpTo_eq_true_iff, Nat.prime_def_lt']
  refine and_congr_right fun hp => forall₂_congr fun m _ => ?_
  rw [Nat.le_sub_one_iff_lt (by omega)]

/-- The table's first column is the outcome of R126's sieve with its inclusive bound 311. -/
theorem romPrimes_eq_sieve : romPrimes = (List.range 312).filter isPrimeByTrial := by
  decide +kernel

theorem mem_romPrimes_iff (n : Nat) : n ∈ romPrimes ↔ n.Prime ∧ n ≤ 311 := by
  rw [romPrimes_eq_sieve, List.mem_filter, List.mem_range, isPrimeByTrial_eq_true_iff, Nat.lt_succ_iff, and_comm]

/-! ### The integer cube root (R127) -/

/-- The bits below `k` end the search: a root known to lie in `[m, m + 2^k)` is found exactly. -/
theorem icbrtBits_spec (n : Nat) {k m : Nat} (hlow : m ^ 3 ≤ n) (hhigh : n < (m + 2 ^ k) ^ 3) :
    icbrtBits n k m ^ 3 ≤ n ∧ n < (icbrtBits n k m + 1) ^ 3 := by
  induction k generalizing m with
  | zero => exact ⟨hlow, hhigh⟩
  | succ k ih =>
    rw [icbrtBits]
    split
    case isTrue hfits =>
      refine ih hfits ?_
      rwa [Nat.add_assoc, ← Nat.two_mul, ← Nat.pow_succ']
    case isFalse hexceeds => exact ih hlow (Nat.lt_of_not_le hexceeds)

theorem icbrt_spec {n : Nat} (hn : n < 2 ^ 120) : icbrt n ^ 3 ≤ n ∧ n < (icbrt n + 1) ^ 3 :=
  icbrtBits_spec n (Nat.zero_le n) (hn.trans_eq (by norm_num))

theorem icbrt_spec_of_mem_romPrimes {p : Nat} (hp : p ∈ romPrimes) :
    icbrt (p * 2 ^ 96) ^ 3 ≤ p * 2 ^ 96 ∧ p * 2 ^ 96 < (icbrt (p * 2 ^ 96) + 1) ^ 3 := by
  have hle : p ≤ 311 := ((mem_romPrimes_iff p).1 hp).2
  exact icbrt_spec (by omega)

/-! ### The real cube root (R127) -/

/-- The integer cube root of `p * 2^96` is the real cube root of `p`, scaled by `2^32` and floored. -/
theorem floor_cbrt_mul_eq {p r : Nat} (hlow : r ^ 3 ≤ p * 2 ^ 96) (hhigh : p * 2 ^ 96 < (r + 1) ^ 3)
    {c : ℝ} (hc : c ^ 3 = p) : ⌊c * 2 ^ 32⌋ = (r : ℤ) := by
  have hcube : (c * 2 ^ 32) ^ 3 = ((p * 2 ^ 96 : ℕ) : ℝ) := by
    rw [mul_pow, hc]
    push_cast
    norm_num
  have hodd : Odd 3 := by decide
  rw [Int.floor_eq_iff, Int.cast_natCast]
  constructor
  · rw [← hodd.pow_le_pow, hcube]
    exact_mod_cast hlow
  · rw [← hodd.pow_lt_pow, hcube]
    exact_mod_cast hhigh

/-- The first `k` bits after the point of `c` are the low `k` bits of `c * 2^k` floored. -/
theorem floor_fract_mul_two_pow (c : ℝ) (k : Nat) :
    ⌊(c - ⌊c⌋) * 2 ^ k⌋ = ⌊c * 2 ^ k⌋ % 2 ^ k := by
  have hdiv : ⌊c * 2 ^ k⌋ / 2 ^ k = ⌊c⌋ := by
    exact_mod_cast Int.mul_cast_floor_div_cancel_of_pos (n := 2 ^ k) (by positivity) c
  have hsplit : (c - ⌊c⌋) * 2 ^ k = c * 2 ^ k - ((2 ^ k * ⌊c⌋ : ℤ) : ℝ) := by
    push_cast
    ring
  rw [hsplit, Int.floor_sub_intCast, Int.emod_def, hdiv]

/-! ### The table (R128) -/

/-- Every row of R128 holds the word that R127's integer form gives for its prime. -/
theorem romRows_snd_eq_kDerived : ∀ r ∈ Config.romRows, r.2 = kDerived r.1 := by
  decide +kernel

theorem k_eq_kDerived {t : Fin 64} {p : Nat} (hp : romPrimes[t.val]? = some p) : Config.k[t] = kDerived p := by
  obtain ⟨r, hr, rfl⟩ : ∃ r, Config.romRows[t.val]? = some r ∧ r.1 = p := by
    rwa [romPrimes, List.getElem?_map, Option.map_eq_some_iff] at hp
  have hk : Config.k[t] = r.2 := by
    obtain ⟨hlt, rfl⟩ := List.getElem?_eq_some_iff.1 hr
    exact List.getElem_map Prod.snd
  rw [hk, romRows_snd_eq_kDerived r (List.mem_of_getElem? hr)]

theorem k_toNat {t : Fin 64} {p : Nat} (hp : romPrimes[t.val]? = some p) :
    (Config.k[t]).toNat = icbrt (p * 2 ^ 96) % 2 ^ 32 := by
  rw [k_eq_kDerived hp, kDerived, BitVec.toNat_ofNat]

/-! ### The obligations -/

/-- Settles O10: the integer cube root `r` of `p_t * 2^96` is `c * 2^32` floored, and both `K[t]` and the first 32
bits of the fraction are `r mod 2^32`. -/
theorem roundConstantsAreCubeRootFractions : Obligations.RoundConstantsAreCubeRootFractions := by
  refine ⟨fun t p hp => ?_, rfl, rfl, rfl⟩
  obtain ⟨hlow, hhigh⟩ := icbrt_spec_of_mem_romPrimes (List.mem_of_getElem? hp)
  refine ⟨fun c hc => ?_, hlow, hhigh, k_toNat hp⟩
  rw [floor_fract_mul_two_pow, floor_cbrt_mul_eq hlow hhigh hc, k_toNat hp]
  norm_cast

/-- Settles O9: the sieve keeps the ascending order of the numbers it filters, and keeps exactly the primes. -/
theorem romPrimesAreTheFirst64 : Obligations.RomPrimesAreTheFirst64 := by
  refine ⟨rfl, ?_, mem_romPrimes_iff⟩
  rw [romPrimes_eq_sieve]
  exact List.pairwise_lt_range.filter _

end Sys2Proof.Machine
end

section
/-! Family 41_padding_engine: the numbers of the padding (R137, R138), `pad(B)` byte by byte and its properties (R140,
R147), the PADBYTE step (R141), and a whole run of PADBYTE steps (R147 item 5). -/

namespace Sys2Proof.Machine

variable {s : State}

/-! ### The bit length and the padded length (R137, R138) -/

theorem bitLength_toNat (L : Nat) : (bitLength L).toNat = 8 * L % 2 ^ 64 := BitVec.toNat_ofNat ..

/-- Below 2^61 bytes the bit length does not wrap. -/
theorem bitLength_toNat_of_lt {L : Nat} (hL : L < 2 ^ 61) : (bitLength L).toNat = 8 * L := by
  rw [bitLength_toNat]
  omega

theorem zeroCount_spec (L : Nat) : (L + 1 + zeroCount L) % 64 = 56 ∧ zeroCount L ≤ 63 := by
  unfold zeroCount
  omega

/-- Two counts that bring the length to 56 mod 64 differ by a multiple of 64, and `z(L)` is below 64. -/
theorem zeroCount_le_of_mod {L z : Nat} (hz : (L + 1 + z) % 64 = 56) : zeroCount L ≤ z := by
  obtain ⟨hmod, hle⟩ := zeroCount_spec L
  omega

theorem padLength_eq_blocks (L : Nat) : padLength L = 64 * ((L + 8) / 64 + 1) := by
  obtain ⟨hmod, hle⟩ := zeroCount_spec L
  unfold padLength
  omega

theorem padLength_bounds (L : Nat) : L + 9 ≤ padLength L ∧ padLength L ≤ L + 72 := by
  obtain ⟨-, hle⟩ := zeroCount_spec L
  unfold padLength
  omega

/-! ### The bytes of the padding (R139) -/

theorem padByte_marker (L : Nat) : padByte L L = 0x80 := if_pos rfl

theorem padByte_zero {L q : Nat} (hq : L < q) (hq' : q < padLength L - 8) : padByte L q = 0x00 := by
  rw [padByte, if_neg hq.ne', if_pos hq']

/-- The last eight bytes are the fields of the bit length, the most significant first. -/
theorem padByte_trailer (L : Nat) {j : Nat} (hj : j < 8) :
    padByte L (padLength L - 8 + j) = (bitLength L).extractLsb' (56 - 8 * j) 8 := by
  have hlen : padLength L - 8 = L + 1 + zeroCount L := rfl
  have hshift : 8 * (padLength L - 1 - (padLength L - 8 + j)) = 56 - 8 * j := by omega
  rw [padByte, if_neg (by omega), if_neg (by omega), hshift,
    BitVec.setWidth_ushiftRight_eq_extractLsb]

theorem getElem?_bytesBe64 (d : Dword) {j : Nat} (hj : j < 8) :
    (bytesBe64 d)[j]? = some (d.extractLsb' (56 - 8 * j) 8) := by
  interval_cases j <;> rfl

/-- `bytesBe64` loses nothing: `be64` takes it back. -/
theorem bytesBe64_injective {d e : Dword} (h : bytesBe64 d = bytesBe64 e) : d = e := by
  simp only [bytesBe64, List.cons.injEq] at h
  obtain ⟨h7, h6, h5, h4, h3, h2, h1, h0, -⟩ := h
  rw [← be64_extractLsb' d, h7, h6, h5, h4, h3, h2, h1, h0, be64_extractLsb']

/-! ### The padded message (R140, R147) -/

theorem length_padMessage (B : List Byte) : (padMessage B).length = padLength B.length := by
  simp only [padMessage, padLength, bytesBe64, List.length_append, List.length_replicate, List.length_cons,
    List.length_nil]

/-- `pad(B)` with everything after the message in one list. -/
theorem padMessage_eq_append (B : List Byte) :
    padMessage B = B ++ (0x80 :: (List.replicate (zeroCount B.length) 0x00 ++
      bytesBe64 (bitLength B.length))) := by
  simp [padMessage]

theorem take_padMessage (B : List Byte) : (padMessage B).take B.length = B := by
  rw [padMessage_eq_append, List.take_left]

theorem drop_padMessage (B : List Byte) :
    (padMessage B).drop ((padMessage B).length - 8) = bytesBe64 (bitLength B.length) := by
  apply List.drop_left'
  rw [length_padMessage, padLength, List.length_append, List.length_append, List.length_replicate]
  rfl

theorem getElem?_padMessage_of_lt {B : List Byte} {q : Nat} (hq : q < B.length) :
    (padMessage B)[q]? = B[q]? := by
  rw [padMessage_eq_append, List.getElem?_append_left hq]

/-- From the end of the message on, each byte of `pad(B)` is R139's: the marker, a zero, or a byte of the bit length. -/
theorem getElem?_padMessage_of_ge {B : List Byte} {q : Nat} (hq : B.length ≤ q)
    (hq' : q < padLength B.length) : (padMessage B)[q]? = some (padByte B.length q) := by
  have hlen : padLength B.length - 8 = B.length + 1 + zeroCount B.length := rfl
  rw [padMessage_eq_append, List.getElem?_append_right hq]
  obtain ⟨i, rfl⟩ := Nat.exists_eq_add_of_le hq
  rw [Nat.add_sub_cancel_left]
  cases i with
  | zero => rw [Nat.add_zero, padByte_marker, List.getElem?_cons_zero]
  | succ i =>
    rw [List.getElem?_cons_succ]
    by_cases hzero : i < zeroCount B.length
    · rw [padByte_zero (by omega) (by omega), List.getElem?_append_left (by simpa using hzero),
        List.getElem?_replicate_of_lt hzero]
    · obtain ⟨j, rfl⟩ := Nat.exists_eq_add_of_le (Nat.le_of_not_lt hzero)
      have hj : j < 8 := by omega
      have haddr : B.length + (zeroCount B.length + j + 1) = padLength B.length - 8 + j := by omega
      rw [haddr, padByte_trailer _ hj, List.getElem?_append_right (by simp), List.length_replicate,
        Nat.add_sub_cancel_left, getElem?_bytesBe64 _ hj]

/-- The trailers give the lengths, as long as these do not wrap, and the lengths give the messages. -/
theorem padMessage_injective {B C : List Byte} (hB : B.length < 2 ^ 61) (hC : C.length < 2 ^ 61)
    (h : padMessage B = padMessage C) : B = C := by
  have htrailer : bitLength B.length = bitLength C.length :=
    bytesBe64_injective (by rw [← drop_padMessage, ← drop_padMessage, h])
  have hlen : B.length = C.length := by
    have hnat := congrArg BitVec.toNat htrailer
    rw [bitLength_toNat_of_lt hB, bitLength_toNat_of_lt hC] at hnat
    omega
  rw [← take_padMessage B, h, hlen, take_padMessage]

/-! ### The PADBYTE step (R141) -/

/-- The part of R60 that the padding of a command needs: `p` is inside a padding that fits `MSG`, and the command is a `PAD`
or a `DIGEST`. -/
structure State.Padding (s : State) : Prop where
  phase : s.phase = .pad
  command : s.opk ≠ .block
  started : s.len.toNat ≤ s.p.toNat
  remains : s.p.toNat < s.padlen.toNat
  padlen : s.padlen.toNat = padLength s.len.toNat
  fits : s.padlen.toNat ≤ s.cfg.msgCap

theorem State.Inv.padding (hs : s.Inv) (hph : s.phase = .pad) : s.Padding := by
  obtain ⟨hlen, hp, hpadlen⟩ := hs.padRange hph
  have hfits : s.padlen.toNat ≤ s.cfg.msgCap := by
    rcases hs.padlenShape with h | ⟨-, -, hcap⟩
    · exact absurd h (ne_zero_of_lt_toNat hp)
    · exact hcap
  exact ⟨hph, hs.padCommand hph, hlen, hp, hpadlen, hfits⟩

/-- While a padding runs, PADBYTE stops for none of its three reasons. -/
theorem State.Padding.engineStep_eq (hs : s.Padding) :
    engineStep s =
      if s.p.toNat + 1 < s.padlen.toNat then
        .next { s.writeMsg s.p.toNat (padByte s.len.toNat s.p.toNat) with p := s.p + 1 }
      else .next (s.writeMsg s.p.toNat (padByte s.len.toNat s.p.toNat)).padDone := by
  have hdomain : ¬ (¬ (s.len.toNat ≤ s.p.toNat ∧ s.p.toNat < padLength s.len.toNat) ∨ s.opk = .block) := by
    simp [hs.started, hs.command, ← hs.padlen, hs.remains]
  have hinside : ¬ s.cfg.msgCap ≤ s.p.toNat := Nat.not_le_of_lt (hs.remains.trans_le hs.fits)
  simp only [engineStep, hs.phase, padByteStep, if_neg hdomain, if_neg hinside]

theorem State.padDone_eq (h : s.opk ≠ .block) :
    s.padDone = if s.opk = .pad then { s with phase := .idle } else { s with t := 0, phase := .sched } := by
  cases hopk : s.opk with
  | pad => simp [State.padDone, hopk]
  | block => exact absurd hopk h
  | digest => simp [State.padDone, hopk]

theorem State.Padding.next (hs : s.Padding) (hmore : s.p.toNat + 1 < s.padlen.toNat) (v : Byte) :
    { s.writeMsg s.p.toNat v with p := s.p + 1 }.Padding := by
  have hp : (s.p + 1).toNat = s.p.toNat + 1 := toNat_add_one_of_lt hs.remains
  exact
    { hs with
      started := hp ▸ hs.started.trans (Nat.le_succ _)
      remains := hp ▸ hmore }

/-! ### A whole padding (R147 item 5, R199) -/

/-- From `p` on, a running padding takes one step per byte to `PADLEN`, leaves R139's byte at each address, and ends as
`padDone` says. -/
theorem State.Padding.engineSteps_eq (hs : s.Padding) :
    ∃ (m : Memory) (q : Dword),
      (∀ a, m.read a =
        if s.p.toNat ≤ a ∧ a < s.padlen.toNat then some (padByte s.len.toNat a) else s.msg.read a) ∧
      engineSteps (s.padlen.toNat - s.p.toNat) s = .next { s with msg := m, p := q }.padDone := by
  induction hn : s.padlen.toNat - s.p.toNat generalizing s with
  | zero => exact absurd hs.remains (Nat.not_lt.2 (Nat.le_of_sub_eq_zero hn))
  | succ n ih =>
    have hstep := hs.engineStep_eq
    by_cases hmore : s.p.toNat + 1 < s.padlen.toNat
    · have hp : (s.p + 1).toNat = s.p.toNat + 1 := toNat_add_one_of_lt hs.remains
      have hs' := hs.next hmore (padByte s.len.toNat s.p.toNat)
      rw [if_pos hmore] at hstep
      obtain ⟨m, q, hm, hrun⟩ := ih hs' (by simp only [State.writeMsg_padlen, hp]; omega)
      simp only [State.writeMsg_padlen, State.writeMsg_len, State.writeMsg_msg, hp] at hm
      refine ⟨m, q, fun a => ?_, (engineSteps_succ n hstep).trans hrun⟩
      rw [hm, Memory.read_write]
      grind -- the address `p` itself, and the others
    · obtain rfl : n = 0 := by omega
      rw [if_neg hmore] at hstep
      refine ⟨s.msg.write s.p.toNat (padByte s.len.toNat s.p.toNat), s.p, fun a => ?_,
        engineSteps_succ 0 hstep⟩
      rw [Memory.read_write]
      grind -- the address `p` itself, and the others

/-- A command that pads starts a padding at `LEN`, because its padding fits. -/
theorem State.padding_startPad (hcfg : s.cfg.wf) (hfit : padLength s.len.toNat ≤ s.cfg.msgCap) {k : Opk}
    (hk : k ≠ .block) : (s.startPad k).Padding := by
  obtain ⟨-, -, hlt⟩ := padLength_shape s.len.toNat
  obtain ⟨-, -, hcap, -⟩ := hcfg
  have hpadlen : (s.startPad k).padlen.toNat = padLength s.len.toNat :=
    Nat.mod_eq_of_lt (hfit.trans_lt hcap)
  exact ⟨rfl, hk, le_rfl, hpadlen.symm ▸ hlt, hpadlen, hpadlen.symm ▸ hfit⟩

theorem State.Padding.respond (hs : s.Padding) (r : Response) : (s.respond r).Padding :=
  { hs with }

/-- A `PAD` that passes its length checks starts the padding (R226). -/
theorem exec_pad_of_lengthOk (hidle : s.phase = .idle) (herr : s.err = .none) (hok : s.LengthOk) :
    exec .pad s = .next ((s.clearResult.startPad .pad).respond .okay) := by
  obtain ⟨hempty, hfit⟩ := hok
  have hready : s.ready = true := State.ready_iff.2 ⟨hidle, herr⟩
  rw [exec, execPad, hready, State.command_true]
  rcases s.padCommand_cases with ⟨-, hlen, hnot⟩ | ⟨-, -, hlarge⟩ | ⟨h, -⟩
  · cases (hempty hlen).symm.trans hnot
  · omega
  · rw [h]
    rfl

/-! ### The obligations -/

/-- Settles O56: acceptance starts a padding at `LEN`, and the run of PADBYTE steps ends in IDLE with every byte written. -/
theorem padCommandPadsInPlace : Obligations.PadCommandPadsInPlace := by
  intro s hcfg hidle herr hok
  have hs : ((s.clearResult.startPad .pad).respond .okay).Padding :=
    (State.padding_startPad (s := s.clearResult) hcfg hok.2 (k := .pad) nofun).respond .okay
  have hpadlen := hs.padlen
  obtain ⟨m, q, hm, hrun⟩ := hs.engineSteps_eq
  rw [hpadlen] at hm hrun
  refine ⟨_, m, .pad, q, exec_pad_of_lengthOk hidle herr hok, hm, hrun.trans ?_⟩
  rw [hidle]
  rfl

/-- Settles O41: under the invariant the step is the write at `p`; after the last byte the command is a `PAD` or a
`DIGEST`. -/
theorem padByteStepWritesOneByte : Obligations.PadByteStepWritesOneByte := by
  intro s hinv hph
  have hs := hinv.padding hph
  refine ⟨s.msg.write s.p.toNat (padByte s.len.toNat s.p.toNat), Memory.read_write_same ..,
    fun _ ha => Memory.read_write_other _ _ ha, ?_⟩
  rw [hs.engineStep_eq, State.padDone_eq (s := s.writeMsg _ _) hs.command, apply_ite Host.Outcome.next]
  rfl

/-- Settles O49: below `L` the byte is the message's, from `L` on it is one of the padding's three kinds. -/
theorem padIsMessageThenPadBytes : Obligations.PadIsMessageThenPadBytes := by
  refine fun B => ⟨rfl, length_padMessage B, fun q hq => ?_⟩
  split
  case isTrue hlt => exact getElem?_padMessage_of_lt hlt
  case isFalse hge => exact getElem?_padMessage_of_ge (Nat.le_of_not_lt hge) hq

/-- Settles O50: the length is `padlen`, the first bytes are the message, the last eight the bit length. -/
theorem padProperties : Obligations.PadProperties := by
  refine ⟨fun B => ⟨?_, ?_, take_padMessage B, ?_⟩, fun _ _ => padMessage_injective⟩
  · rw [length_padMessage]
    exact (padLength_shape B.length).1
  · rw [length_padMessage]
    exact (padLength_bounds B.length).1
  · refine ⟨_, _, _, _, _, _, _, _, drop_padMessage B, ?_⟩
    rw [be64_extractLsb', bitLength_toNat]

/-- Settles O47: `z(L)` is the remainder of `55 - L`, and `padlen` ends its block of 64. -/
theorem padLengthFacts : Obligations.PadLengthFacts := by
  intro L
  obtain ⟨hmod, hle⟩ := zeroCount_spec L
  obtain ⟨hmultiple, hblock, -⟩ := padLength_shape L
  refine ⟨hmod, hle, ?_, ?_, fun _ => zeroCount_le_of_mod, rfl, padLength_eq_blocks L, hmultiple, hblock,
    padLength_bounds L⟩
  · omega
  · omega

/-- Settles O48: `bitlen` is a dword, while `padlen` is a natural number. -/
theorem bitLengthWraps : Obligations.BitLengthWraps := by
  refine ⟨by decide, by decide, by decide, ?_, fun L => ⟨bitLength_toNat L, bitLength_toNat_of_lt⟩⟩
  rw [padLength_eq_blocks]
  norm_num

end Sys2Proof.Machine
end

section
/-! Family 42_message_schedule: the words that the recurrence determines (R156), the SCHED step in its two forms (R157,
R158), and a whole run of SCHED steps (R161). -/

namespace Sys2Proof.Machine

variable {B : Vector Byte 64} {V W : Words64} {s : State}

/-! ### One word of the schedule (R156) -/

theorem scheduleWord_of_lt (B : Vector Byte 64) (W : Words64) {t : Fin 64} (ht : t.val < 16) :
    scheduleWord B W t = W.set t (blockWord B t ht) := dif_pos ht

theorem scheduleWord_of_ge (B : Vector Byte 64) (W : Words64) {t : Fin 64} (ht : 16 ≤ t.val) :
    scheduleWord B W t = W.set t (expandWord W t) := dif_neg (Nat.not_lt.2 ht)

theorem getElem_scheduleWord_of_ne (B : Vector Byte 64) (W : Words64) {i t : Fin 64} (hit : i ≠ t) :
    (scheduleWord B W t)[i] = W[i] := by
  have hval : t.val ≠ i.val := fun h => hit (Fin.ext h.symm)
  unfold scheduleWord
  split <;> exact Vector.getElem_set_ne _ _ hval

/-- The recurrence reads only words below `t`: "all four indices lie in 0..t-1". -/
theorem expandWord_congr {t : Fin 64} (ht : 16 ≤ t.val) (h : ∀ i : Fin 64, i < t → V[i] = W[i]) :
    expandWord V t = expandWord W t := by
  have hback (k : Nat) (hk : 0 < k) (hk' : k ≤ 16) : V[t.val - k] = W[t.val - k] :=
    h ⟨t.val - k, by omega⟩ (Nat.sub_lt (by omega) hk)
  simp only [expandWord, hback, Nat.reduceLeDiff, Nat.ofNat_pos]

/-- The word put in at `t` depends on the block and on the words below `t` only. -/
theorem getElem_scheduleWord_congr {t : Fin 64} (h : ∀ i : Fin 64, i < t → V[i] = W[i]) :
    (scheduleWord B V t)[t] = (scheduleWord B W t)[t] := by
  by_cases ht : t.val < 16
  · simp [scheduleWord_of_lt, ht]
  · have hge := Nat.le_of_not_lt ht
    simp [scheduleWord_of_ge, hge, expandWord_congr hge h]

/-! ### The words that meet the recurrence -/

/-- The first `n` words of `W` are the ones that R156 puts in, from `B` and from each other. -/
def ScheduledTo (B : Vector Byte 64) (W : Words64) (n : Nat) : Prop :=
  ∀ t : Fin 64, t.val < n → W[t] = (scheduleWord B W t)[t]

/-- Putting in the next word disturbs none of the words before it. -/
theorem ScheduledTo.succ {t : Fin 64} (h : ScheduledTo B W t.val) :
    ScheduledTo B (scheduleWord B W t) (t.val + 1) := by
  intro i hi
  have hkept (j : Fin 64) (hj : j < i) : W[j] = (scheduleWord B W t)[j] :=
    (getElem_scheduleWord_of_ne B W (by omega)).symm
  rw [← getElem_scheduleWord_congr hkept]
  by_cases hit : i = t
  · rw [hit]
  · rw [getElem_scheduleWord_of_ne B W hit]
    exact h i (by omega)

/-- The recurrence determines every word, whatever stood in `W` before. -/
theorem ScheduledTo.unique (hV : ScheduledTo B V 64) (hW : ScheduledTo B W 64) : V = W := by
  have hword (n : Nat) (hn : n < 64) : V[n] = W[n] := by
    induction n using Nat.strong_induction_on with
    | _ n ih =>
      have hbelow (i : Fin 64) (hi : i < ⟨n, hn⟩) : V[i] = W[i] := ih i.val hi i.isLt
      calc V[n] = (scheduleWord B V ⟨n, hn⟩)[n] := hV ⟨n, hn⟩ hn
        _ = (scheduleWord B W ⟨n, hn⟩)[n] := getElem_scheduleWord_congr hbelow
        _ = W[n] := (hW ⟨n, hn⟩ hn).symm
  exact Vector.ext hword

theorem scheduledTo_foldl_take (B : Vector Byte 64) (W : Words64) (n : Nat) (hn : n ≤ 64) :
    ScheduledTo B (((List.finRange 64).take n).foldl (scheduleWord B) W) n := by
  induction n with
  | zero => exact fun _ h => absurd h (Nat.not_lt_zero _)
  | succ n ih =>
    have hlast : n < (List.finRange 64).length := by simpa using hn
    rw [← List.take_append_getElem hlast, List.foldl_append, List.getElem_finRange]
    exact (ih (Nat.le_of_succ_le hn)).succ (t := ⟨n, hn⟩)

theorem scheduledTo_schedule (B : Vector Byte 64) : ScheduledTo B (schedule B) 64 :=
  scheduledTo_foldl_take B _ 64 le_rfl

/-! ### The SCHED step (R157, R158) -/

theorem engineStep_of_sched (hph : s.phase = .sched) : engineStep s = schedStep s := by
  rw [engineStep, hph]

theorem engineStep_schedLoad (hph : s.phase = .sched) (ht : s.t.val ≤ 15)
    (hfit : s.loadAddress + 4 ≤ s.cfg.msgCap) :
    engineStep s = .next { s with
      w := s.w.set s.t s.loadWord, t := s.t + 1, freeCount := s.freeCount + 1 } := by
  rw [engineStep_of_sched hph, schedStep, if_pos ht, schedLoadStep, if_neg (Nat.not_lt.2 hfit)]
  rfl

theorem engineStep_schedExpand (hph : s.phase = .sched) (ht : 16 ≤ s.t.val) :
    engineStep s =
      if s.t.val < 63 then .next { s with w := s.w.set s.t (expandWord s.w s.t), t := s.t + 1 }
      else .next { s with w := s.w.set s.t (expandWord s.w s.t), phase := .winit } := by
  rw [engineStep_of_sched hph, schedStep, if_neg (Nat.not_le.2 ht), schedExpandStep]

/-- The four bytes of a load step lie inside their block. -/
theorem State.loadAddress_fits (hblock : 64 * s.blk.toNat + 64 ≤ s.cfg.msgCap) (ht : s.t.val ≤ 15) :
    s.loadAddress + 4 ≤ s.cfg.msgCap := by
  unfold State.loadAddress
  omega

/-! ### A whole run of SCHED steps (R161) -/

/-- The block that a run of SCHED steps from `s` loads. Load step `t` reads bytes `4t .. 4t+3` as one reading event
(log 3), so byte `i` is read by the event `i / 4` of the run. -/
def State.loadedBlock (s : State) : Vector Byte 64 :=
  Vector.ofFn fun i => { s with freeCount := s.freeCount + i.val / 4 }.msgByte (64 * s.blk.toNat + i.val)

theorem State.getElem_loadedBlock (s : State) {i : Nat} (hi : i < 64) :
    s.loadedBlock[i] = { s with freeCount := s.freeCount + i / 4 }.msgByte (64 * s.blk.toNat + i) :=
  Vector.getElem_ofFn ..

theorem State.blockIs_loadedBlock (s : State) : s.BlockIs s.blk.toNat s.loadedBlock := fun i _ hread =>
  (s.getElem_loadedBlock i.isLt).trans (State.msgByte_of_read hread)

/-- The state before SCHED step `t` of a run from `s`, with `W` as the schedule so far. -/
def State.scheduling (s : State) (W : Words64) (t : Fin 64) : State :=
  { s with w := W, t := t, freeCount := s.freeCount + min t.val 16 }

theorem State.scheduling_zero (ht : s.t = 0) : s.scheduling s.w 0 = s := by
  have hcount : s.freeCount + min s.t.val 16 = s.freeCount := by simp [ht]
  rw [← ht, State.scheduling, hcount]

theorem State.loadWord_scheduling (s : State) (W : Words64) {t : Fin 64} (ht : t.val < 16) :
    (s.scheduling W t).loadWord = blockWord s.loadedBlock t ht := by
  have hbyte (j : Nat) (hj : j < 4) :
      s.loadedBlock[4 * t.val + j] = (s.scheduling W t).msgByte ((s.scheduling W t).loadAddress + j) := by
    have hevent : (4 * t.val + j) / 4 = min t.val 16 := by omega
    rw [State.getElem_loadedBlock, hevent, ← Nat.add_assoc]
    rfl
  rw [State.loadWord, blockWord, hbyte 1 (by decide), hbyte 2 (by decide), hbyte 3 (by decide)]
  exact congrArg (be32 · _ _ _) (hbyte 0 (by decide)).symm

/-- Every SCHED step of the run but the last puts the next word of the loaded block's schedule into `W`. -/
theorem State.engineStep_scheduling (hph : s.phase = .sched) (hblock : 64 * s.blk.toNat + 64 ≤ s.cfg.msgCap)
    (W : Words64) {n : Nat} (hn : n + 1 < 64) :
    engineStep (s.scheduling W ⟨n, Nat.lt_of_succ_lt hn⟩) =
      .next (s.scheduling (scheduleWord s.loadedBlock W ⟨n, Nat.lt_of_succ_lt hn⟩) ⟨n + 1, hn⟩) := by
  have hnext : (⟨n, Nat.lt_of_succ_lt hn⟩ : Fin 64) + 1 = ⟨n + 1, hn⟩ := Fin.ext (Nat.mod_eq_of_lt hn)
  by_cases hload : n < 16
  · have hcount : s.freeCount + min n 16 + 1 = s.freeCount + min (n + 1) 16 := by omega
    have hle : n ≤ 15 := Nat.le_of_lt_succ hload
    have hfit := State.loadAddress_fits (s := s.scheduling W ⟨n, Nat.lt_of_succ_lt hn⟩) hblock hle
    rw [engineStep_schedLoad (s := s.scheduling W ⟨n, Nat.lt_of_succ_lt hn⟩) hph hle hfit,
      s.loadWord_scheduling W hload, scheduleWord_of_lt _ _ hload]
    simp only [State.scheduling, hnext, hcount]
  · have hcount : min n 16 = min (n + 1) 16 := by omega
    have hge : 16 ≤ n := Nat.le_of_not_lt hload
    rw [engineStep_schedExpand (s := s.scheduling W ⟨n, Nat.lt_of_succ_lt hn⟩) hph hge,
      scheduleWord_of_ge _ _ hge]
    simp only [State.scheduling, hnext, hcount, if_pos (Nat.lt_of_succ_lt_succ hn)]

/-- The last SCHED step of the run. -/
theorem State.engineStep_scheduling_last (hph : s.phase = .sched) (W : Words64) :
    engineStep (s.scheduling W (Fin.last 63)) =
      .next { s with
        w := scheduleWord s.loadedBlock W (Fin.last 63), phase := .winit, t := Fin.last 63,
        freeCount := s.freeCount + 16 } := by
  have hge : 16 ≤ (Fin.last 63).val := by decide
  rw [engineStep_schedExpand (s := s.scheduling W (Fin.last 63)) hph hge, scheduleWord_of_ge _ _ hge]
  rfl

/-- Before step `n` of the run the words below `n` are the schedule's. -/
theorem State.engineSteps_scheduling (hph : s.phase = .sched) (ht : s.t = 0)
    (hblock : 64 * s.blk.toNat + 64 ≤ s.cfg.msgCap) (n : Nat) (hn : n < 64) :
    ∃ W, ScheduledTo s.loadedBlock W n ∧ engineSteps n s = .next (s.scheduling W ⟨n, hn⟩) := by
  induction n with
  | zero => exact ⟨s.w, fun _ h => absurd h (Nat.not_lt_zero _), congrArg _ (State.scheduling_zero ht).symm⟩
  | succ n ih =>
    obtain ⟨W, hW, hrun⟩ := ih (Nat.lt_of_succ_lt hn)
    exact ⟨_, hW.succ (t := ⟨n, Nat.lt_of_succ_lt hn⟩),
      (engineSteps_add 1 hrun).trans (engineSteps_succ 0 (s.engineStep_scheduling hph hblock W hn))⟩

/-! ### The obligations -/

/-- Settles O53: the run leaves words that meet the recurrence of the loaded block, and only one `W` does. -/
theorem schedStepsBuildTheSchedule : Obligations.SchedStepsBuildTheSchedule := by
  intro s hph ht hblock
  obtain ⟨W, hW, hrun⟩ := State.engineSteps_scheduling hph ht hblock 63 (by decide)
  have hlast := s.engineStep_scheduling_last hph W
  have hschedule : scheduleWord s.loadedBlock W (Fin.last 63) = schedule s.loadedBlock :=
    ScheduledTo.unique hW.succ (scheduledTo_schedule _)
  rw [hschedule] at hlast
  exact ⟨s.loadedBlock, _, _, s.blockIs_loadedBlock,
    (engineSteps_add 1 hrun).trans (engineSteps_succ 0 hlast)⟩

/-- Settles O42: under the invariant the step reads inside `MSG`, so it is the load. -/
theorem scheduleLoadStep : Obligations.ScheduleLoadStep := by
  intro s hinv hph ht
  have hblock := hinv.blockInside (by rw [hph]; rfl)
  exact ⟨_, _, _, _, fun _ => State.msgByte_of_read, fun _ => State.msgByte_of_read,
    fun _ => State.msgByte_of_read, fun _ => State.msgByte_of_read,
    engineStep_schedLoad hph ht (State.loadAddress_fits hblock ht)⟩

/-- Settles O51: word `t` of the schedule is the one that `scheduleWord` puts in, in either form. -/
theorem scheduleMeetsTheRecurrence : Obligations.ScheduleMeetsTheRecurrence := by
  intro B t ht
  have hword := scheduledTo_schedule B ⟨t, ht⟩ ht
  refine ⟨fun hlt => ?_, fun hge => ?_⟩
  · rw [scheduleWord_of_lt _ _ hlt] at hword
    exact hword.trans (Vector.getElem_set_self _)
  · rw [scheduleWord_of_ge _ _ hge] at hword
    exact hword.trans (Vector.getElem_set_self _)

/-- Settles O43: the four words are the ones that the recurrence reads. -/
theorem scheduleExpandStep : Obligations.ScheduleExpandStep := by
  intro s x2 x7 x15 x16 hph ht h2 h7 h15 h16
  have hexpand : expandWord s.w s.t = sigma1 x2 + x7 + sigma0 x15 + x16 := by
    obtain ⟨-, rfl⟩ := Vector.getElem?_eq_some_iff.1 h2
    obtain ⟨-, rfl⟩ := Vector.getElem?_eq_some_iff.1 h7
    obtain ⟨-, rfl⟩ := Vector.getElem?_eq_some_iff.1 h15
    obtain ⟨-, rfl⟩ := Vector.getElem?_eq_some_iff.1 h16
    rfl
  rw [engineStep_schedExpand hph ht, hexpand]

end Sys2Proof.Machine
end

section
/-! Family 43_compressor: `ch` and `maj` bit by bit (R173, R175), the steps WINIT, ROUND and ADD (R170, R176, R178), and a
whole block from WINIT to ADD (R179). -/

namespace Sys2Proof.Machine

variable {s : State}

/-! ### Choice and majority (R173, R175) -/

theorem getLsbD_ch (x y z : Word) {i : Nat} (hi : i < 32) :
    (ch x y z).getLsbD i = if x.getLsbD i then y.getLsbD i else z.getLsbD i := by
  simp only [ch, BitVec.getLsbD_xor, BitVec.getLsbD_and, BitVec.getLsbD_not, hi, decide_true, Bool.true_and]
  cases x.getLsbD i <;> simp

theorem majority_of_bits (a b c : Bool) :
    (a && b ^^ a && c ^^ b && c) = decide (2 ≤ a.toNat + b.toNat + c.toNat) := by
  revert a b c
  decide

theorem getLsbD_maj (x y z : Word) (i : Nat) :
    (maj x y z).getLsbD i = decide (2 ≤ (x.getLsbD i).toNat + (y.getLsbD i).toNat + (z.getLsbD i).toNat) := by
  simp only [maj, BitVec.getLsbD_xor, BitVec.getLsbD_and, majority_of_bits]

/-! ### The three steps (R170, R176, R178) -/

theorem engineStep_of_winit (hph : s.phase = .winit) :
    engineStep s = .next { s with vars := Vars.ofHash s.h, t := 0, phase := .round } := by
  rw [engineStep, hph]
  rfl

theorem romRead_of_kromOk {c : Config} (hkrom : c.kromOk = true) (t : Fin 64) : romRead c t = Config.k[t] :=
  if_pos hkrom

theorem engineStep_of_round (hph : s.phase = .round) (hkrom : s.cfg.kromOk = true) :
    engineStep s =
      if s.t.val < 63 then .next { s with vars := roundFn s.vars Config.k[s.t] s.w[s.t], t := s.t + 1 }
      else .next { s with vars := roundFn s.vars Config.k[s.t] s.w[s.t], phase := .add } := by
  have hstep : engineStep s = roundStep s := by rw [engineStep, hph]
  rw [hstep, roundStep, romRead_of_kromOk hkrom]

/-- `s` after an ADD with the working variables `v` and the index `t`, field by field: what it does to `H` and `BLK` does not
depend on what follows the block. -/
def State.afterAdd (s : State) (v : Vars) (t : Fin 64) : State :=
  { s with
    h := addBack s.h v, vars := v, blk := s.blk + 1,
    t := if s.blocksRemain (s.blk + 1) then 0 else t,
    phase := if s.blocksRemain (s.blk + 1) then .sched else .idle,
    valid := s.valid || !s.blocksRemain (s.blk + 1) && s.opk == .digest }

theorem engineStep_of_add (hph : s.phase = .add) : engineStep s = .next (s.afterAdd s.vars s.t) := by
  have hstep : engineStep s = addStep s := by rw [engineStep, hph]
  rw [hstep, addStep, State.afterAdd]
  cases s.blocksRemain (s.blk + 1) <;> simp

theorem State.blocksRemain_iff (b : Dword) :
    s.blocksRemain b = true ↔ s.opk = .digest ∧ 64 * b.toNat < s.padlen.toNat := by
  simp [State.blocksRemain]

/-- `BLK + 1` does not wrap while a block is in progress, because the block lies inside `MSG`. -/
theorem State.Inv.blk_add_one_toNat (hs : s.Inv) (hon : s.phase.onBlock = true) :
    (s.blk + 1).toNat = s.blk.toNat + 1 := by
  have hblock := hs.blockInside hon
  obtain ⟨-, -, hcap, -⟩ := hs.cfgWf
  bv_omega

/-! ### From WINIT to ADD (R179) -/

/-- The working variables after the first `n` rounds of `compress(S, W)`. -/
def roundsFrom (S : Hash) (W : Words64) (n : Nat) : Vars :=
  ((List.finRange 64).take n).foldl (fun v t => roundFn v Config.k[t] W[t]) (Vars.ofHash S)

theorem roundsFrom_succ (S : Hash) (W : Words64) {n : Nat} (hn : n < 64) :
    roundsFrom S W (n + 1) = roundFn (roundsFrom S W n) Config.k[n] W[n] := by
  have hlast : n < (List.finRange 64).length := by simpa using hn
  rw [roundsFrom, ← List.take_append_getElem hlast, List.foldl_append, List.getElem_finRange]
  rfl

theorem addBack_roundsFrom (S : Hash) (W : Words64) : addBack S (roundsFrom S W 64) = compress S W := by
  rw [roundsFrom, List.take_of_length_le (by simp), compress]

/-- `s` with other working variables, index and phase: a state on the way from WINIT to ADD. -/
def State.working (s : State) (v : Vars) (t : Fin 64) (ph : Phase) : State :=
  { s with vars := v, t := t, phase := ph }

/-- Every round but the last goes on to the next. -/
theorem State.engineStep_working (hkrom : s.cfg.kromOk = true) (v : Vars) {n : Nat} (hn : n + 1 < 64) :
    engineStep (s.working v ⟨n, Nat.lt_of_succ_lt hn⟩ .round) =
      .next (s.working (roundFn v Config.k[n] s.w[n]) ⟨n + 1, hn⟩ .round) := by
  have hnext : (⟨n, Nat.lt_of_succ_lt hn⟩ : Fin 64) + 1 = ⟨n + 1, hn⟩ := Fin.ext (Nat.mod_eq_of_lt hn)
  rw [engineStep_of_round (s := s.working v ⟨n, Nat.lt_of_succ_lt hn⟩ .round) rfl hkrom]
  simp only [State.working, hnext, if_pos (Nat.lt_of_succ_lt_succ hn)]
  rfl

theorem State.engineStep_working_last (hkrom : s.cfg.kromOk = true) (v : Vars) :
    engineStep (s.working v (Fin.last 63) .round) =
      .next (s.working (roundFn v Config.k[63] s.w[63]) (Fin.last 63) .add) :=
  engineStep_of_round (s := s.working v (Fin.last 63) .round) rfl hkrom

theorem State.engineSteps_working (hph : s.phase = .winit) (hkrom : s.cfg.kromOk = true) (n : Nat)
    (hn : n < 64) : engineSteps (n + 1) s = .next (s.working (roundsFrom s.h s.w n) ⟨n, hn⟩ .round) := by
  induction n with
  | zero => exact engineSteps_succ 0 (engineStep_of_winit hph)
  | succ n ih =>
    rw [roundsFrom_succ s.h s.w (Nat.lt_of_succ_lt hn)]
    exact (engineSteps_add 1 (ih (Nat.lt_of_succ_lt hn))).trans
      (engineSteps_succ 0 (State.engineStep_working hkrom _ hn))

/-- WINIT and the 64 rounds, before the ADD. -/
theorem State.engineSteps_rounds (hph : s.phase = .winit) (hkrom : s.cfg.kromOk = true) :
    engineSteps 65 s = .next (s.working (roundsFrom s.h s.w 64) (Fin.last 63) .add) := by
  rw [roundsFrom_succ s.h s.w (n := 63) (by decide)]
  exact (engineSteps_add 1 (State.engineSteps_working hph hkrom 63 (by decide))).trans
    (engineSteps_succ 0 (State.engineStep_working_last hkrom _))

theorem State.engineStep_working_add (v : Vars) (t : Fin 64) :
    engineStep (s.working v t .add) = .next (s.afterAdd v t) :=
  engineStep_of_add rfl

/-- A whole block from WINIT on. The working variables `v` stand for 64 rounds: they are named by what they add back to, so
that no use of the lemma computes them. -/
theorem State.engineSteps_compress (hph : s.phase = .winit) (hkrom : s.cfg.kromOk = true) :
    ∃ v, addBack s.h v = compress s.h s.w ∧ engineSteps 66 s = .next (s.afterAdd v (Fin.last 63)) :=
  ⟨_, addBack_roundsFrom s.h s.w, (engineSteps_add 1 (State.engineSteps_rounds hph hkrom)).trans
    (engineSteps_succ 0 (State.engineStep_working_add _ (Fin.last 63)))⟩

/-! ### The obligations -/

/-- Settles O54: the rounds reach the ADD with the working variables of `compress`, and the ADD adds them back to an `H` that
no round has touched. -/
theorem roundsAndAddBackCompress : Obligations.RoundsAndAddBackCompress := by
  intro s hph hkrom
  obtain ⟨v, hadd, hrun⟩ := State.engineSteps_compress hph hkrom
  exact ⟨_, hrun, hadd, rfl, rfl, rfl, rfl, rfl, rfl, rfl, rfl⟩

/-- Settles O46: under the invariant `BLK + 1` does not wrap, so the step's test for a block left is the rule's. -/
theorem addStepAddsBack : Obligations.AddStepAddsBack := by
  intro s hinv hph
  have hblk := hinv.blk_add_one_toNat (by rw [hph]; rfl)
  refine ⟨_, engineStep_of_add hph, hblk, rfl, ?_⟩
  have hmore := s.blocksRemain_iff (s.blk + 1)
  rw [hblk] at hmore
  by_cases hleft : s.opk = .digest ∧ 64 * (s.blk.toNat + 1) < s.padlen.toNat
  · rw [if_pos hleft, State.afterAdd, hmore.2 hleft]
    simp
  · rw [if_neg hleft, State.afterAdd, Bool.eq_false_iff.2 (mt hmore.1 hleft)]
    by_cases hopk : s.opk = .digest <;> simp [hopk]

/-- Settles O2: each bit of `ch` is selected by `x`'s, each bit of `maj` is voted by the three. -/
theorem chSelectsAndMajVotes : Obligations.ChSelectsAndMajVotes := fun x y z i hi =>
  ⟨getLsbD_ch x y z hi, getLsbD_maj x y z i⟩

/-- Settles O44: the step loads `Vars.ofHash`, the eight words of `H` in order. -/
theorem winitLoadsTheWorkingVariables : Obligations.WinitLoadsTheWorkingVariables := fun _ hph =>
  engineStep_of_winit hph

/-- Settles O45: the two sums are the ones that the round function makes. -/
theorem roundStepIsTheRoundFunction : Obligations.RoundStepIsTheRoundFunction := by
  intro s t1 t2 hph hkrom h1 h2
  have hround : roundFn s.vars Config.k[s.t] s.w[s.t] =
      ⟨t1 + t2, s.vars.a, s.vars.b, s.vars.c, s.vars.d + t1, s.vars.e, s.vars.f, s.vars.g⟩ := by
    subst h1 h2
    rfl
  rw [engineStep_of_round hph hkrom, hround]

end Sys2Proof.Machine
end

section
/-! Family 44_digest_driver: the hex form (R205), the run of a command to its end (R198, R199), and what whole commands
leave: a `BLOCK` (R202), a `DIGEST` (R201, R204), and the long way of R203. -/

namespace Sys2Proof.Machine

variable {s t u : State}

/-! ### The hex form (R205) -/

/-- In a concatenation of pieces of one length `k`, the element `j` of piece `i` stands at `k * i + j`. -/
theorem getElem?_flatMap_of_length {α β : Type} {f : α → List β} {k : Nat} (hf : ∀ x, (f x).length = k)
    (l : List α) (i : Nat) {j : Nat} (hj : j < k) :
    (l.flatMap f)[k * i + j]? = l[i]?.bind fun x => (f x)[j]? := by
  induction l generalizing i with
  | nil => simp
  | cons x l ih =>
    rw [List.flatMap_cons]
    cases i with
    | zero => simp [List.getElem?_append_left, hf, hj]
    | succ i =>
      have hpast : k * (i + 1) + j = (f x).length + (k * i + j) := by rw [hf]; ring
      rw [hpast, List.getElem?_append_right (by omega), Nat.add_sub_cancel_left, ih,
        List.getElem?_cons_succ]

theorem length_hexWord (w : Word) : (hexWord w).length = 8 := by
  simp [hexWord]

theorem hexDigit_eq_getElem? : ∀ n < 16, some (hexDigit n) = "0123456789abcdef".toList[n]? := by
  decide

/-- Bits `31-4j : 28-4j` as the quotient and remainder by powers of 16. -/
theorem extractLsb'_nibble_toNat (w : Word) {j : Nat} (hj : j < 8) :
    (w.extractLsb' (28 - 4 * j) 4).toNat = w.toNat / 16 ^ (7 - j) % 16 := by
  have hpow : 2 ^ (28 - 4 * j) = 16 ^ (7 - j) := by
    rw [show 28 - 4 * j = 4 * (7 - j) by omega, pow_mul]
    rfl
  rw [BitVec.extractLsb'_toNat, Nat.shiftRight_eq_div_pow, hpow]

theorem getElem?_hexWord (w : Word) {j : Nat} (hj : j < 8) :
    (hexWord w)[j]? = "0123456789abcdef".toList[w.toNat / 16 ^ (7 - j) % 16]? := by
  rw [← hexDigit_eq_getElem? _ (Nat.mod_lt _ (by decide)), ← extractLsb'_nibble_toNat w hj]
  simp [hexWord, hj]

theorem length_flatMap_hexWord (S : Hash) : (S.toList.flatMap hexWord).length = 64 := by
  simp [List.length_flatMap, length_hexWord]

/-! ### No step stops under the invariant (R198) -/

theorem engineStep_eq_padByteStep (hph : s.phase = .pad) : engineStep s = padByteStep s := by
  rw [engineStep, hph]

theorem engineStep_eq_roundStep (hph : s.phase = .round) : engineStep s = roundStep s := by
  rw [engineStep, hph]

/-- The one stop of SCHED is a load outside `MSG`, and R60 item 4 excludes it. -/
theorem State.Inv.schedStep_completes (hs : s.Inv) (hph : s.phase = .sched) : ∃ t, engineStep s = .next t := by
  by_cases hload : s.t.val ≤ 15
  · have hblock := hs.blockInside (by rw [hph]; rfl)
    exact ⟨_, engineStep_schedLoad hph hload (State.loadAddress_fits hblock hload)⟩
  · rw [engineStep_schedExpand hph (Nat.lt_of_not_le hload), ← apply_ite Host.Outcome.next]
    exact ⟨_, rfl⟩

theorem State.Inv.engineStep_completes (hs : s.Inv) : ∃ t, engineStep s = .next t := by
  cases hph : s.phase with
  | idle => exact ⟨_, engineStep_of_idle hph⟩
  | pad =>
    rw [(hs.padding hph).engineStep_eq, ← apply_ite Host.Outcome.next]
    exact ⟨_, rfl⟩
  | sched => exact hs.schedStep_completes hph
  | winit => exact ⟨_, engineStep_of_winit hph⟩
  | round =>
    rw [engineStep_eq_roundStep hph, roundStep, ← apply_ite Host.Outcome.next]
    exact ⟨_, rfl⟩
  | add => exact ⟨_, engineStep_of_add hph⟩

/-! ### The steps left of a command (R199) -/

theorem State.stepsLeft_of_idle (hph : s.phase = .idle) : s.stepsLeft = 0 := by
  rw [State.stepsLeft, hph]

theorem State.stepsLeft_of_pad (hph : s.phase = .pad) :
    s.stepsLeft = (s.padlen.toNat - s.p.toNat) +
      (if s.opk = .digest then blockSteps * (s.padlen.toNat / 64) else 0) := by
  rw [State.stepsLeft, hph]

theorem State.stepsLeft_of_sched (hph : s.phase = .sched) :
    s.stepsLeft = (64 - s.t.val) + 66 + s.laterBlockSteps := by
  rw [State.stepsLeft, hph]

theorem State.stepsLeft_of_winit (hph : s.phase = .winit) : s.stepsLeft = 66 + s.laterBlockSteps := by
  rw [State.stepsLeft, hph]

theorem State.stepsLeft_of_round (hph : s.phase = .round) :
    s.stepsLeft = (64 - s.t.val) + 1 + s.laterBlockSteps := by
  rw [State.stepsLeft, hph]

theorem State.stepsLeft_of_add (hph : s.phase = .add) : s.stepsLeft = 1 + s.laterBlockSteps := by
  rw [State.stepsLeft, hph]

theorem State.laterBlockSteps_eq (s : State) :
    s.laterBlockSteps = if s.opk = .digest then blockSteps * (s.padlen.toNat / 64 - s.blk.toNat - 1) else 0 := by
  unfold State.laterBlockSteps
  split <;> simp [*]

theorem State.Inv.stepsLeft_pos (hs : s.Inv) (hbusy : s.phase ≠ .idle) : 0 < s.stepsLeft := by
  cases hph : s.phase with
  | idle => exact absurd hph hbusy
  | pad =>
    obtain ⟨-, hp, -⟩ := hs.padRange hph
    rw [State.stepsLeft_of_pad hph]
    omega
  | sched => rw [State.stepsLeft_of_sched hph]; omega
  | winit => rw [State.stepsLeft_of_winit hph]; omega
  | round => rw [State.stepsLeft_of_round hph]; omega
  | add => rw [State.stepsLeft_of_add hph]; omega

/-- The blocks after the running one depend on the command, `PADLEN` and `BLK` only. -/
theorem State.laterBlockSteps_congr (hopk : t.opk = s.opk) (hpadlen : t.padlen = s.padlen)
    (hblk : t.blk = s.blk) : t.laterBlockSteps = s.laterBlockSteps := by
  rw [State.laterBlockSteps_eq, State.laterBlockSteps_eq, hopk, hpadlen, hblk]

theorem val_add_one_of_lt_last {i : Fin 64} (hi : i.val < 63) : (i + 1).val = i.val + 1 :=
  Fin.val_add_one_of_lt (n := 63) hi

/-- A PADBYTE step is one of the `PADLEN - p` left; the last one of a `DIGEST` leaves all its blocks. -/
theorem State.Inv.padByteStep_stepsLeft (hs : s.Inv) (hph : s.phase = .pad) (h : padByteStep s = .next t) :
    t.stepsLeft + 1 = s.stepsLeft := by
  obtain ⟨-, hp, hpadlen⟩ := hs.padRange hph
  rw [State.stepsLeft_of_pad hph]
  obtain ⟨-, -, hcommand, -, ⟨hmore, ht⟩ | ⟨hlast, ht⟩⟩ := padByteStep_cases h
  · have hp1 : t.p.toNat = s.p.toNat + 1 := by rw [ht]; exact toNat_add_one_of_lt hp
    have hopk : t.opk = s.opk := by rw [ht]; rfl
    have hpl : t.padlen = s.padlen := by rw [ht]; rfl
    rw [State.stepsLeft_of_pad (s := t) (by rw [ht]; exact hph), hopk, hpl, hp1]
    omega
  · have hphase : t.phase = if s.opk = .pad then .idle else .sched := by rw [ht, State.padDone_phase]; rfl
    have hone : s.padlen.toNat - s.p.toNat = 1 := by omega
    cases hopk : s.opk with
    | pad =>
      rw [State.stepsLeft_of_idle (s := t) (by rw [hphase, if_pos hopk]), hone]
      rfl
    | block => exact absurd hopk hcommand
    | digest =>
      obtain ⟨-, hblock, -⟩ := padLength_shape s.len.toNat
      have hlater : t.laterBlockSteps = blockSteps * (s.padlen.toNat / 64 - 1) := by
        simp [ht, State.laterBlockSteps_eq, hopk, hs.padDigest hph hopk]
      have hfirst : t.t.val = 0 := by simp [ht, State.padDone, hopk]
      rw [State.stepsLeft_of_sched (s := t) (by rw [hphase, hopk]; rfl), hlater, hone, hfirst, if_pos rfl,
        blockSteps]
      omega

/-- A SCHED step counts `t` up, or goes on to the 66 steps from WINIT on. -/
theorem schedStep_stepsLeft (hph : s.phase = .sched) (h : schedStep s = .next t) :
    t.stepsLeft + 1 = s.stepsLeft := by
  have hkept : t.laterBlockSteps = s.laterBlockSteps ∧
      ((t.phase = .sched ∧ t.t = s.t + 1 ∧ s.t.val < 63) ∨ (t.phase = .winit ∧ s.t.val = 63)) := by
    rcases schedStep_cases h with ⟨hload, -, rfl⟩ | ⟨-, hmore, rfl⟩ | ⟨hlast, rfl⟩
    · exact ⟨State.laterBlockSteps_congr rfl rfl rfl, .inl ⟨hph, rfl, Nat.lt_of_le_of_lt hload (by decide)⟩⟩
    · exact ⟨State.laterBlockSteps_congr rfl rfl rfl, .inl ⟨hph, rfl, hmore⟩⟩
    · exact ⟨State.laterBlockSteps_congr rfl rfl rfl, .inr ⟨rfl, hlast⟩⟩
  obtain ⟨hlater, ⟨hph', hidx, hmore⟩ | ⟨hph', hlast⟩⟩ := hkept
  · rw [State.stepsLeft_of_sched hph, State.stepsLeft_of_sched hph', hlater, hidx, val_add_one_of_lt_last hmore]
    omega
  · rw [State.stepsLeft_of_sched hph, State.stepsLeft_of_winit hph', hlater, hlast]
    omega

theorem winitStep_stepsLeft (hph : s.phase = .winit) (h : winitStep s = .next t) :
    t.stepsLeft + 1 = s.stepsLeft := by
  obtain rfl := winitStep_cases h
  rw [State.stepsLeft_of_winit hph, State.stepsLeft_of_round rfl,
    State.laterBlockSteps_congr (s := s) rfl rfl rfl]
  exact Nat.add_right_comm 65 _ 1

theorem roundStep_stepsLeft (hph : s.phase = .round) (h : roundStep s = .next t) :
    t.stepsLeft + 1 = s.stepsLeft := by
  have hkept : t.laterBlockSteps = s.laterBlockSteps ∧
      ((t.phase = .round ∧ t.t = s.t + 1 ∧ s.t.val < 63) ∨ (t.phase = .add ∧ s.t.val = 63)) := by
    rcases roundStep_cases h with ⟨hmore, rfl⟩ | ⟨hlast, rfl⟩
    · exact ⟨State.laterBlockSteps_congr rfl rfl rfl, .inl ⟨hph, rfl, hmore⟩⟩
    · exact ⟨State.laterBlockSteps_congr rfl rfl rfl, .inr ⟨rfl, hlast⟩⟩
  obtain ⟨hlater, ⟨hph', hidx, hmore⟩ | ⟨hph', hlast⟩⟩ := hkept
  · rw [State.stepsLeft_of_round hph, State.stepsLeft_of_round hph', hlater, hidx, val_add_one_of_lt_last hmore]
    omega
  · rw [State.stepsLeft_of_round hph, State.stepsLeft_of_add hph', hlater, hlast]
    omega

/-- An ADD is the last step, or it goes on to the next of the blocks left. -/
theorem State.Inv.addStep_stepsLeft (hs : s.Inv) (hph : s.phase = .add) (h : addStep s = .next t) :
    t.stepsLeft + 1 = s.stepsLeft := by
  have hon : s.phase.onBlock = true := by rw [hph]; rfl
  have hblk : (s.blk + 1).toNat = s.blk.toNat + 1 := hs.blk_add_one_toNat hon
  rw [State.stepsLeft_of_add hph, State.laterBlockSteps_eq]
  rcases addStep_cases h with ⟨hopk, hmore, rfl⟩ | ⟨hlast, rfl⟩
  · rw [State.stepsLeft_of_sched rfl, State.laterBlockSteps_eq]
    simp only [hopk, if_true, hblk, blockSteps, Fin.val_zero]
    rcases hs.padlenShape with hzero | ⟨hmod, -, -⟩
    · exact absurd hzero (ne_zero_of_lt_toNat hmore)
    · omega
  · rw [State.stepsLeft_of_idle rfl]
    by_cases hopk : s.opk = .digest
    · have hend := hs.last_block hon hopk fun hlt => hlast ⟨hopk, hlt⟩
      have hnone : s.padlen.toNat / 64 - s.blk.toNat - 1 = 0 := by omega
      rw [if_pos hopk, hnone, Nat.mul_zero]
    · rw [if_neg hopk]

/-- Every engine step of a running command is one of the steps left. -/
theorem State.Inv.engineStep_stepsLeft (hs : s.Inv) (hbusy : s.phase ≠ .idle) (h : engineStep s = .next t) :
    t.stepsLeft + 1 = s.stepsLeft := by
  rcases engineStep_cases h with ⟨hph, -⟩ | ⟨hph, h⟩ | ⟨hph, h⟩ | ⟨hph, h⟩ | ⟨hph, h⟩ | ⟨hph, h⟩
  · exact absurd hph hbusy
  · exact hs.padByteStep_stepsLeft hph h
  · exact schedStep_stepsLeft hph h
  · exact winitStep_stepsLeft hph h
  · exact roundStep_stepsLeft hph h
  · exact hs.addStep_stepsLeft hph h

/-- The engine runs through the steps left, one by one. -/
theorem State.Inv.engineSteps_stepsLeft (hs : s.Inv) {n : Nat} (hn : n ≤ s.stepsLeft) :
    ∃ t, engineSteps n s = .next t ∧ t.Inv ∧ t.stepsLeft + n = s.stepsLeft := by
  induction n generalizing s with
  | zero => exact ⟨s, rfl, hs, rfl⟩
  | succ n ih =>
    have hbusy : s.phase ≠ .idle := fun hidle => by
      rw [State.stepsLeft_of_idle hidle] at hn
      exact absurd hn (Nat.not_succ_le_zero n)
    obtain ⟨u, hu⟩ := hs.engineStep_completes
    have hcount := hs.engineStep_stepsLeft hbusy hu
    obtain ⟨t, ht, hinv, hleft⟩ := ih (engineStep_keeps_inv hs hu) (by omega)
    exact ⟨t, (engineSteps_succ n hu).trans ht, hinv, by omega⟩

theorem State.Inv.phase_eq_idle_iff (hs : s.Inv) : s.phase = .idle ↔ s.stepsLeft = 0 :=
  ⟨State.stepsLeft_of_idle, fun h => by_contra fun hbusy => (hs.stepsLeft_pos hbusy).ne' h⟩

/-- `PADLEN` takes `padlen(LEN)` unwrapped where that fits `MSG`. -/
theorem toNat_ofNat_padLength {c : Config} (hc : c.wf) {L : Nat} (hfit : padLength L ≤ c.msgCap) :
    (BitVec.ofNat 64 (padLength L)).toNat = padLength L := by
  obtain ⟨-, -, hcap, -⟩ := hc
  exact Nat.mod_eq_of_lt (hfit.trans_lt hcap)

/-- The steps that an accepted `PAD`, `BLOCK` or `DIGEST` that starts the engine has left. -/
theorem exec_stepsLeft {i : Instr} (hs : s.Inv) (hidle : s.phase = .idle) (h : exec i s = .next t)
    (hbusy : t.phase ≠ .idle) :
    (i = .pad ∧ t.stepsLeft = padLength s.len.toNat - s.len.toNat) ∨
    (i = .block ∧ t.stepsLeft = blockSteps) ∨
    (i = .digest ∧ t.stepsLeft = digestSteps s.len.toNat) := by
  rcases exec_cases h with rfl | ⟨-, ⟨-, rfl⟩ | ⟨-, rfl⟩ | ⟨-, hcommand⟩⟩
  · exact absurd hidle hbusy
  · exact absurd hidle hbusy
  · exact absurd hidle hbusy
  · rcases hcommand with ⟨-, rfl⟩ | ⟨hi, rfl⟩ | ⟨hi, -, rfl⟩ | ⟨hi, rfl⟩
    · exact absurd hidle hbusy
    · rcases s.padCommand_cases with ⟨heq, -⟩ | ⟨heq, -⟩ | ⟨heq, -, hfit⟩ <;> rw [heq] at hbusy ⊢
      · exact absurd hidle hbusy
      · exact absurd hidle hbusy
      · refine .inl ⟨hi, (State.stepsLeft_of_pad rfl).trans ?_⟩
        simp only [State.respond_padlen, State.respond_p, State.respond_opk, reduceCtorEq, if_false,
          toNat_ofNat_padLength hs.cfgWf hfit, Nat.add_zero]
    · rcases s.blockCommand_cases with ⟨heq, -⟩ | ⟨heq, -⟩ <;> rw [heq] at hbusy ⊢
      · exact absurd hidle hbusy
      · exact .inr (.inl ⟨hi, (State.stepsLeft_of_sched rfl).trans rfl⟩)
    · rcases s.digestCommand_cases with ⟨heq, -⟩ | ⟨-, ⟨heq, -⟩ | ⟨heq, -⟩ | ⟨heq, -, hfit⟩⟩ <;>
        rw [heq] at hbusy ⊢
      · exact absurd hidle hbusy
      · exact absurd hidle hbusy
      · exact absurd hidle hbusy
      · refine .inr (.inr ⟨hi, (State.stepsLeft_of_pad rfl).trans ?_⟩)
        simp only [State.respond_padlen, State.respond_p, State.respond_opk, if_true,
          toNat_ofNat_padLength hs.cfgWf hfit, digestSteps]

/-! ### One block, from SCHED to ADD (R199) -/

/-- The run of O53 with every field named, so that runs of several blocks can be put together. -/
theorem State.engineSteps_schedule (hph : s.phase = .sched) (ht : s.t = 0)
    (hblock : 64 * s.blk.toNat + 64 ≤ s.cfg.msgCap) :
    engineSteps 64 s = .next { s with
      w := schedule s.loadedBlock, phase := .winit, t := Fin.last 63, freeCount := s.freeCount + 16 } := by
  obtain ⟨W, hW, hrun⟩ := State.engineSteps_scheduling hph ht hblock 63 (by decide)
  have hlast := s.engineStep_scheduling_last hph W
  have hschedule : scheduleWord s.loadedBlock W (Fin.last 63) = schedule s.loadedBlock :=
    ScheduledTo.unique hW.succ (scheduledTo_schedule _)
  rw [hschedule] at hlast
  exact (engineSteps_add 1 hrun).trans (engineSteps_succ 0 hlast)

/-- The 130 steps of a block: `H` takes the block in, `BLK` counts it, and what follows is as the ADD finds it. -/
theorem State.engineSteps_block (hph : s.phase = .sched) (ht : s.t = 0) (hkrom : s.cfg.kromOk = true)
    (hblock : 64 * s.blk.toNat + 64 ≤ s.cfg.msgCap) :
    ∃ (v : Vars) (w : Words64), addBack s.h v = compress s.h (schedule s.loadedBlock) ∧
      engineSteps blockSteps s =
        .next (State.afterAdd { s with w := w, freeCount := s.freeCount + 16 } v (Fin.last 63)) := by
  have hsched := State.engineSteps_schedule hph ht hblock
  obtain ⟨v, hadd, hrun⟩ := State.engineSteps_compress (s := { s with
    w := schedule s.loadedBlock, phase := .winit, t := Fin.last 63, freeCount := s.freeCount + 16 }) rfl hkrom
  exact ⟨v, _, hadd, (engineSteps_add 66 hsched).trans hrun⟩

/-- A block of a `DIGEST` with another one after it. -/
theorem State.engineSteps_block_next (hph : s.phase = .sched) (ht : s.t = 0) (hkrom : s.cfg.kromOk = true)
    (hblock : 64 * s.blk.toNat + 64 ≤ s.cfg.msgCap) (hmore : s.blocksRemain (s.blk + 1) = true) :
    ∃ (v : Vars) (w : Words64), engineSteps blockSteps s = .next { s with
      h := compress s.h (schedule s.loadedBlock), vars := v, w := w, blk := s.blk + 1,
      freeCount := s.freeCount + 16 } := by
  obtain ⟨v, w, hadd, hrun⟩ := State.engineSteps_block hph ht hkrom hblock
  refine ⟨v, w, hrun.trans ?_⟩
  have hmore' : State.blocksRemain { s with w := w, freeCount := s.freeCount + 16 } (s.blk + 1) = true := hmore
  rw [State.afterAdd, hadd, hmore', hph, ht]
  simp

/-- The last block of a command. -/
theorem State.engineSteps_block_last (hph : s.phase = .sched) (ht : s.t = 0) (hkrom : s.cfg.kromOk = true)
    (hblock : 64 * s.blk.toNat + 64 ≤ s.cfg.msgCap) (hlast : s.blocksRemain (s.blk + 1) = false) :
    ∃ (v : Vars) (w : Words64), engineSteps blockSteps s = .next { s with
      h := compress s.h (schedule s.loadedBlock), vars := v, w := w, blk := s.blk + 1, t := Fin.last 63,
      phase := .idle, valid := s.valid || s.opk == .digest, freeCount := s.freeCount + 16 } := by
  obtain ⟨v, w, hadd, hrun⟩ := State.engineSteps_block hph ht hkrom hblock
  refine ⟨v, w, hrun.trans ?_⟩
  have hlast' : State.blocksRemain { s with w := w, freeCount := s.freeCount + 16 } (s.blk + 1) = false := hlast
  rw [State.afterAdd, hadd, hlast']
  simp

/-! ### A whole `BLOCK` (R202) -/

/-- The state in which an accepted `BLOCK` starts (R225). -/
def State.startBlock (s : State) : State :=
  { s with valid := false, t := 0, opk := .block, phase := .sched, resp := some .okay }

theorem exec_block_of_fits (hidle : s.phase = .idle) (herr : s.err = .none) (hkrom : s.cfg.kromOk = true)
    (hblock : 64 * s.blk.toNat + 64 ≤ s.cfg.msgCap) : exec .block s = .next s.startBlock := by
  have hready : s.ready = true := State.ready_iff.2 ⟨hidle, herr⟩
  have hin : s.blockInMsg = true := decide_eq_true hblock
  rw [exec, execBlock, hready, hin, Bool.and_self, State.command_true, State.blockCommand, if_pos hkrom]
  rfl

/-- The state after an accepted `BLOCK`, whose working state is `v` and `w`. -/
def State.afterBlock (s : State) (v : Vars) (w : Words64) : State :=
  { s with
    h := compress s.h (schedule s.loadedBlock), vars := v, w := w, blk := s.blk + 1, valid := false, opk := .block,
    t := Fin.last 63, resp := some .okay, freeCount := s.freeCount + 16 }

theorem State.engineSteps_startBlock (hidle : s.phase = .idle) (hkrom : s.cfg.kromOk = true)
    (hblock : 64 * s.blk.toNat + 64 ≤ s.cfg.msgCap) :
    ∃ (v : Vars) (w : Words64), engineSteps blockSteps s.startBlock = .next (s.afterBlock v w) := by
  obtain ⟨v, w, hrun⟩ := State.engineSteps_block_last (s := s.startBlock) rfl rfl hkrom hblock rfl
  refine ⟨v, w, hrun.trans ?_⟩
  rw [State.afterBlock, hidle]
  rfl

/-! ### The bytes that a run of loads reads -/

/-- The first `n` bytes of `MSG` as the blocks 0, 1, ... of a run from `s` load them. A load step reads four bytes as one
reading event (log 3), so address `a` is read by the event `a / 4` of the run. -/
def State.loadedBytes (s : State) (n : Nat) : List Byte :=
  (List.range n).map fun a => { s with freeCount := s.freeCount + a / 4 }.msgByte a

theorem State.length_loadedBytes (s : State) (n : Nat) : (s.loadedBytes n).length = n := by
  simp [State.loadedBytes]

theorem State.getElem?_loadedBytes (s : State) {n a : Nat} (ha : a < n) :
    (s.loadedBytes n)[a]? = some ({ s with freeCount := s.freeCount + a / 4 }.msgByte a) := by
  simp [State.loadedBytes, ha]

theorem State.getElem?_loadedBytes_of_read {n a : Nat} (ha : a < n) {v : Byte} (hread : s.msg.read a = some v) :
    (s.loadedBytes n)[a]? = some v := by
  rw [s.getElem?_loadedBytes ha]
  exact congrArg some (State.msgByte_of_read hread)

theorem State.messageIs_loadedBytes (s : State) : s.MessageIs (s.loadedBytes s.len.toNat) :=
  ⟨s.length_loadedBytes _, fun _ _ ha hread => State.getElem?_loadedBytes_of_read ha hread⟩

/-- A written message is one list of bytes, whichever state of that message it is taken from. -/
theorem State.MessageIs.unique {M N : List Byte} (hM : s.MessageIs M) (hN : u.MessageIs N)
    (hlen : s.len = u.len) (hwritten : s.MessageWritten)
    (hread : ∀ a < s.len.toNat, s.msg.read a = u.msg.read a) : M = N := by
  obtain ⟨hMlen, hMbyte⟩ := hM
  obtain ⟨hNlen, hNbyte⟩ := hN
  refine List.ext_getElem? fun a => ?_
  by_cases ha : a < s.len.toNat
  · obtain ⟨v, hv⟩ := Option.ne_none_iff_exists'.1 (hwritten a ha)
    rw [hMbyte a v ha hv, hNbyte a v (hlen ▸ ha) (hread a ha ▸ hv)]
  · rw [List.getElem?_eq_none (by omega), List.getElem?_eq_none (by rw [hNlen, ← hlen]; omega)]

/-- After `b` blocks, of 16 reading events each, the next loads read block `b`. -/
theorem State.loadedBlock_eq_blockOf {b n : Nat} (hmsg : t.msg = s.msg) (hblk : t.blk.toNat = b)
    (hcount : t.freeCount = s.freeCount + 16 * b) (hb : 64 * b + 64 ≤ n) :
    t.loadedBlock = blockOf (s.loadedBytes n) b := by
  refine Vector.ext fun i hi => ?_
  have hevent : s.freeCount + 16 * b + i / 4 = s.freeCount + (64 * b + i) / 4 := by omega
  rw [t.getElem_loadedBlock hi, blockOf, Vector.getElem_ofFn, List.getD_eq_getElem?_getD,
    s.getElem?_loadedBytes (by omega), Option.getD_some, State.msgByte, State.msgByte, hmsg, hblk, hcount, hevent]

/-- The loads of a padded message read `pad` of the message that they read. -/
theorem State.loadedBytes_padded {L : Nat} (hpad : s.PaddedTo L t.msg) (hcount : t.freeCount = s.freeCount) :
    t.loadedBytes (padLength L) = padMessage (s.loadedBytes L) := by
  obtain ⟨-, -, hlt⟩ := padLength_shape L
  refine List.ext_getElem? fun a => ?_
  have hread := hpad a
  by_cases hmessage : a < L
  · rw [if_neg (by omega)] at hread
    rw [t.getElem?_loadedBytes (by omega), getElem?_padMessage_of_lt (by rwa [s.length_loadedBytes]),
      s.getElem?_loadedBytes hmessage, State.msgByte, State.msgByte, hread, hcount]
  · by_cases hpadding : a < padLength L
    · rw [if_pos (by omega)] at hread
      rw [State.getElem?_loadedBytes_of_read hpadding hread,
        getElem?_padMessage_of_ge (by rw [s.length_loadedBytes]; omega) (by rwa [s.length_loadedBytes]),
        s.length_loadedBytes]
    · rw [List.getElem?_eq_none (by rw [t.length_loadedBytes]; omega),
        List.getElem?_eq_none (by rw [length_padMessage, s.length_loadedBytes]; omega)]

/-! ### The padding as one memory -/

/-- `n` bytes of the padding of an `L`-byte message written from address `q` on, ascending. -/
def Memory.writePadding (m : Memory) (L q n : Nat) : Memory :=
  match n with
  | 0 => m
  | n + 1 => Memory.writePadding (m.write q (padByte L q)) L (q + 1) n

theorem Memory.read_writePadding (m : Memory) (L q n a : Nat) :
    (m.writePadding L q n).read a = if q ≤ a ∧ a < q + n then some (padByte L a) else m.read a := by
  induction n generalizing m q with
  | zero => rw [if_neg (by omega)]; rfl
  | succ n ih =>
    rw [Memory.writePadding, ih, Memory.read_write]
    grind -- the address `q` itself, and the others

/-- `Padding.engineSteps_eq` with the memory as a function of the one before: two commands that pad alike leave the same
memory, also where it is not in its canonical form. -/
theorem State.Padding.engineSteps_writePadding (hs : s.Padding) :
    ∃ q : Dword, engineSteps (s.padlen.toNat - s.p.toNat) s = .next { s with
      msg := s.msg.writePadding s.len.toNat s.p.toNat (s.padlen.toNat - s.p.toNat), p := q }.padDone := by
  induction hn : s.padlen.toNat - s.p.toNat generalizing s with
  | zero => exact absurd hs.remains (Nat.not_lt.2 (Nat.le_of_sub_eq_zero hn))
  | succ n ih =>
    have hstep := hs.engineStep_eq
    by_cases hmore : s.p.toNat + 1 < s.padlen.toNat
    · have hp : (s.p + 1).toNat = s.p.toNat + 1 := toNat_add_one_of_lt hs.remains
      have hs' := hs.next hmore (padByte s.len.toNat s.p.toNat)
      rw [if_pos hmore] at hstep
      obtain ⟨q, hrun⟩ := ih hs' (by simp only [State.writeMsg_padlen, hp]; omega)
      simp only [State.writeMsg_len, State.writeMsg_msg, hp] at hrun
      exact ⟨q, (engineSteps_succ n hstep).trans hrun⟩
    · obtain rfl : n = 0 := by omega
      rw [if_neg hmore] at hstep
      exact ⟨s.p, engineSteps_succ 0 hstep⟩

/-- `MSG` after the padding of the message that `LEN` delimits. -/
def State.paddedMsg (s : State) : Memory :=
  s.msg.writePadding s.len.toNat s.len.toNat (padLength s.len.toNat - s.len.toNat)

theorem State.paddedTo_paddedMsg (s : State) : s.PaddedTo s.len.toNat s.paddedMsg := by
  intro a
  obtain ⟨-, -, hlt⟩ := padLength_shape s.len.toNat
  rw [State.paddedMsg, Memory.read_writePadding, Nat.add_sub_cancel' hlt.le]

/-- The padding steps of a `PAD` or a `DIGEST`, from acceptance on. -/
theorem State.engineSteps_startPad (hcfg : s.cfg.wf) (hfit : padLength s.len.toNat ≤ s.cfg.msgCap) {k : Opk}
    (hk : k ≠ .block) :
    ∃ q, engineSteps (padLength s.len.toNat - s.len.toNat) ((s.startPad k).respond .okay) =
      .next (State.padDone { (s.startPad k).respond .okay with msg := s.paddedMsg, p := q }) := by
  have hpadding : ((s.startPad k).respond .okay).Padding := (State.padding_startPad hcfg hfit hk).respond .okay
  have hpadlen := hpadding.padlen
  obtain ⟨q, hrun⟩ := hpadding.engineSteps_writePadding
  rw [hpadlen] at hrun
  exact ⟨q, hrun⟩

/-! ### The blocks of a `DIGEST` (R196, R199) -/

/-- `s` after `n` blocks of the padded message, with the working state `v` and `w`: `S_n` of R196 stands in `H`. -/
def State.afterBlocks (s : State) (n : Nat) (v : Vars) (w : Words64) : State :=
  { s with
    h := hashFirst s.h (s.loadedBytes s.padlen.toNat) n, vars := v, w := w, blk := BitVec.ofNat 64 n,
    freeCount := s.freeCount + 16 * n }

/-- The part of R60 that the blocks of a `DIGEST` need: the first of them is about to start, and all are inside `MSG`. -/
structure State.FirstBlock (s : State) : Prop where
  phase : s.phase = .sched
  index : s.t = 0
  command : s.opk = .digest
  first : s.blk = 0
  kromOk : s.cfg.kromOk = true
  whole : s.padlen.toNat % 64 = 0
  nonempty : 64 ≤ s.padlen.toNat
  fits : s.padlen.toNat ≤ s.cfg.msgCap

/-- A number of blocks that lies inside `PADLEN` fits `BLK`. -/
theorem State.toNat_blk_of_le {n : Nat} (hn : 64 * n ≤ s.padlen.toNat) : (BitVec.ofNat 64 n).toNat = n := by
  have := s.padlen.isLt
  exact Nat.mod_eq_of_lt (by omega)

theorem ofNat_add_one (n : Nat) : BitVec.ofNat 64 n + 1 = BitVec.ofNat 64 (n + 1) := by
  simp [BitVec.ofNat_add]

theorem State.loadedBlock_afterBlocks {n : Nat} (hn : 64 * n + 64 ≤ s.padlen.toNat) (v : Vars) (w : Words64) :
    (s.afterBlocks n v w).loadedBlock = blockOf (s.loadedBytes s.padlen.toNat) n :=
  State.loadedBlock_eq_blockOf rfl (State.toNat_blk_of_le (s := s) (by omega)) rfl hn

theorem State.FirstBlock.block_fits (hs : s.FirstBlock) {n : Nat} (hn : 64 * (n + 1) ≤ s.padlen.toNat) (v : Vars)
    (w : Words64) : 64 * (s.afterBlocks n v w).blk.toNat + 64 ≤ s.cfg.msgCap := by
  have hfits := hs.fits
  simp only [State.afterBlocks, State.toNat_blk_of_le (s := s) (n := n) (by omega)]
  omega

theorem State.blocksRemain_afterBlocks (hs : s.FirstBlock) {n : Nat} (hn : 64 * (n + 1) ≤ s.padlen.toNat)
    (v : Vars) (w : Words64) :
    (s.afterBlocks n v w).blocksRemain ((s.afterBlocks n v w).blk + 1) =
      decide (64 * (n + 1) < s.padlen.toNat) := by
  rw [Bool.eq_iff_iff, State.blocksRemain_iff, decide_eq_true_iff]
  simp only [State.afterBlocks, ofNat_add_one, State.toNat_blk_of_le hn, hs.command, true_and]

/-- As long as a block is left, each 130 steps take in the next one. -/
theorem State.FirstBlock.engineSteps_afterBlocks (hs : s.FirstBlock) {n : Nat}
    (hn : 64 * (n + 1) ≤ s.padlen.toNat) :
    ∃ (v : Vars) (w : Words64), engineSteps (blockSteps * n) s = .next (s.afterBlocks n v w) := by
  induction n with
  | zero =>
    refine ⟨s.vars, s.w, congrArg Host.Outcome.next ?_⟩
    have hzero : BitVec.ofNat 64 0 = s.blk := hs.first.symm
    rw [State.afterBlocks, hzero]
    rfl
  | succ n ih =>
    obtain ⟨v, w, hrun⟩ := ih (by omega)
    have hmore := (State.blocksRemain_afterBlocks hs (n := n) (by omega) v w).trans (decide_eq_true (by omega))
    obtain ⟨v', w', hblock⟩ := State.engineSteps_block_next (s := s.afterBlocks n v w) hs.phase hs.index hs.kromOk
      (hs.block_fits (by omega) v w) hmore
    refine ⟨v', w', (engineSteps_add blockSteps hrun).trans (hblock.trans ?_)⟩
    rw [State.loadedBlock_afterBlocks (by omega)]
    simp only [State.afterBlocks, ofNat_add_one, hashFirst, Nat.mul_succ, Nat.add_assoc]

/-- The last block of a `DIGEST` ends the command with the digest of all blocks. -/
theorem State.FirstBlock.engineSteps_eq (hs : s.FirstBlock) :
    ∃ (v : Vars) (w : Words64), engineSteps (blockSteps * (s.padlen.toNat / 64)) s = .next
      { s.afterBlocks (s.padlen.toNat / 64) v w with t := Fin.last 63, phase := .idle, valid := true } := by
  have hnonempty := hs.nonempty
  have hwhole := hs.whole
  obtain ⟨n, hn⟩ : ∃ n, s.padlen.toNat / 64 = n + 1 := Nat.exists_eq_add_one.2 (by omega)
  have hlen : 64 * (n + 1) = s.padlen.toNat := by omega
  obtain ⟨v, w, hrun⟩ := hs.engineSteps_afterBlocks hlen.le
  have hlast := (State.blocksRemain_afterBlocks hs hlen.le v w).trans (decide_eq_false (by omega))
  obtain ⟨v', w', hblock⟩ := State.engineSteps_block_last (s := s.afterBlocks n v w) hs.phase hs.index hs.kromOk
    (hs.block_fits hlen.le v w) hlast
  refine ⟨v', w', ?_⟩
  rw [hn]
  refine (engineSteps_add blockSteps hrun).trans (hblock.trans ?_)
  rw [State.loadedBlock_afterBlocks hlen.le]
  simp only [State.afterBlocks, ofNat_add_one, hashFirst, Nat.mul_succ, Nat.add_assoc, hs.command,
    beq_self_eq_true, Bool.or_true]

/-! ### A whole `DIGEST` (R201) -/

/-- The state in which an accepted `DIGEST` that passes its checks starts (R227). -/
def State.startDigest (s : State) : State :=
  State.respond (State.startPad { s.clearResult with h := Config.iv, blk := 0 } .digest) .okay

theorem exec_digest_of_lengthOk (hidle : s.phase = .idle) (herr : s.err = .none) (hkrom : s.cfg.kromOk = true)
    (hok : s.LengthOk) : exec .digest s = .next s.startDigest := by
  obtain ⟨hempty, hfit⟩ := hok
  have hready : s.ready = true := State.ready_iff.2 ⟨hidle, herr⟩
  rw [exec, execDigest, hready, State.command_true]
  rcases s.digestCommand_cases with ⟨-, hbroken⟩ | ⟨-, ⟨-, hlen, hnot⟩ | ⟨-, -, hlarge⟩ | ⟨h, -⟩⟩
  · cases hkrom.symm.trans hbroken
  · cases (hempty hlen).symm.trans hnot
  · omega
  · rw [h]
    rfl

/-- The state after such a `DIGEST`, whose working state is `v`, `w` and `q`. -/
def State.afterDigest (s : State) (v : Vars) (w : Words64) (q : Dword) : State :=
  { s with
    h := digest (s.loadedBytes s.len.toNat), msg := s.paddedMsg,
    padlen := BitVec.ofNat 64 (padLength s.len.toNat), blk := BitVec.ofNat 64 (padLength s.len.toNat / 64),
    valid := true, vars := v, w := w, opk := .digest, t := Fin.last 63, p := q, resp := some .okay,
    freeCount := s.freeCount + 16 * (padLength s.len.toNat / 64) }

theorem hashFirst_padMessage {B : List Byte} {L : Nat} (hB : B.length = L) :
    hashFirst Config.iv (padMessage B) (padLength L / 64) = digest B := by
  rw [digest, hashBlocks, length_padMessage, hB]

/-- The state in which such a `DIGEST` has written its padding and starts its first block. -/
def State.digestPadded (s : State) (q : Dword) : State :=
  { s.startDigest with msg := s.paddedMsg, p := q, t := 0, phase := .sched }

theorem State.engineSteps_digestPadded (hcfg : s.cfg.wf) (hfit : padLength s.len.toNat ≤ s.cfg.msgCap) :
    ∃ q, engineSteps (padLength s.len.toNat - s.len.toNat) s.startDigest = .next (s.digestPadded q) :=
  State.engineSteps_startPad (s := { s.clearResult with h := Config.iv, blk := 0 }) hcfg hfit (k := .digest) nofun

theorem State.firstBlock_digestPadded (hcfg : s.cfg.wf) (hkrom : s.cfg.kromOk = true)
    (hfit : padLength s.len.toNat ≤ s.cfg.msgCap) (q : Dword) : (s.digestPadded q).FirstBlock := by
  obtain ⟨hwhole, hnonempty, -⟩ := padLength_shape s.len.toNat
  have hpadlen : (s.digestPadded q).padlen.toNat = padLength s.len.toNat := toNat_ofNat_padLength hcfg hfit
  exact ⟨rfl, rfl, rfl, rfl, hkrom, hpadlen.symm ▸ hwhole, hpadlen.symm ▸ hnonempty, hpadlen.symm ▸ hfit⟩

/-- The padding, then the blocks: they load `pad` of the message that they load. -/
theorem State.engineSteps_startDigest (hcfg : s.cfg.wf) (hidle : s.phase = .idle) (hkrom : s.cfg.kromOk = true)
    (hfit : padLength s.len.toNat ≤ s.cfg.msgCap) :
    ∃ (v : Vars) (w : Words64) (q : Dword),
      engineSteps (digestSteps s.len.toNat) s.startDigest = .next (s.afterDigest v w q) := by
  obtain ⟨q, hpadding⟩ := State.engineSteps_digestPadded hcfg hfit
  obtain ⟨v, w, hblocks⟩ := (State.firstBlock_digestPadded hcfg hkrom hfit q).engineSteps_eq
  have hpadlen : (s.digestPadded q).padlen.toNat = padLength s.len.toNat := toNat_ofNat_padLength hcfg hfit
  have hbytes : (s.digestPadded q).loadedBytes (padLength s.len.toNat) = padMessage (s.loadedBytes s.len.toNat) :=
    State.loadedBytes_padded s.paddedTo_paddedMsg rfl
  rw [State.afterBlocks, hpadlen, hbytes] at hblocks
  refine ⟨v, w, q, (engineSteps_add _ hpadding).trans (hblocks.trans ?_)⟩
  rw [State.afterDigest, ← hashFirst_padMessage (s.length_loadedBytes s.len.toNat), hidle]
  rfl

/-! ### Runs of a script (R82, R110) -/

/-- `s` with other events to come. -/
def State.withEvents (s : State) (evs : List Event) : State := { s with events := evs }

theorem State.withEvents_padDone (s : State) (evs : List Event) :
    (s.withEvents evs).padDone = s.padDone.withEvents evs := by
  cases hopk : s.opk <;> simp [State.padDone, State.withEvents, hopk]

theorem padByteStep_withEvents (h : padByteStep s = .next t) (evs : List Event) :
    padByteStep (s.withEvents evs) = .next (t.withEvents evs) := by
  obtain ⟨hlen, hp, hopk, hcap, hnext⟩ := padByteStep_cases h
  have hdomain : ¬ (¬ (s.len.toNat ≤ s.p.toNat ∧ s.p.toNat < padLength s.len.toNat) ∨ s.opk = .block) := by
    simp [hlen, hp, hopk]
  refine (if_neg hdomain).trans ((if_neg (Nat.not_le.2 hcap)).trans ?_)
  rcases hnext with ⟨hmore, rfl⟩ | ⟨hlast, rfl⟩
  · exact if_pos hmore
  · rw [← State.withEvents_padDone]
    exact if_neg hlast

theorem schedStep_withEvents (h : schedStep s = .next t) (evs : List Event) :
    schedStep (s.withEvents evs) = .next (t.withEvents evs) := by
  rcases schedStep_cases h with ⟨hload, hfit, rfl⟩ | ⟨hexpand, hmore, rfl⟩ | ⟨hlast, rfl⟩
  · exact (if_pos hload).trans (if_neg (Nat.not_lt.2 hfit))
  · exact (if_neg (Nat.not_le.2 hexpand)).trans (if_pos hmore)
  · exact (if_neg (by omega : ¬ s.t.val ≤ 15)).trans (if_neg (by omega : ¬ s.t.val < 63))

theorem roundStep_withEvents (h : roundStep s = .next t) (evs : List Event) :
    roundStep (s.withEvents evs) = .next (t.withEvents evs) := by
  rcases roundStep_cases h with ⟨hmore, rfl⟩ | ⟨hlast, rfl⟩
  · exact if_pos hmore
  · exact if_neg (by omega : ¬ s.t.val < 63)

/-- No engine step reads or changes the events to come. -/
theorem engineStep_withEvents (h : engineStep s = .next t) (evs : List Event) :
    engineStep (s.withEvents evs) = .next (t.withEvents evs) := by
  rcases engineStep_cases h with ⟨hph, rfl⟩ | ⟨hph, h⟩ | ⟨hph, h⟩ | ⟨hph, h⟩ | ⟨hph, h⟩ | ⟨hph, -⟩
  · exact engineStep_of_idle hph
  · exact (engineStep_eq_padByteStep (s := s.withEvents evs) hph).trans (padByteStep_withEvents h evs)
  · exact (engineStep_of_sched (s := s.withEvents evs) hph).trans (schedStep_withEvents h evs)
  · obtain rfl := winitStep_cases h
    exact engineStep_of_winit hph
  · exact (engineStep_eq_roundStep (s := s.withEvents evs) hph).trans (roundStep_withEvents h evs)
  · obtain rfl := Outcome_next_inj.1 ((engineStep_of_add hph).symm.trans h)
    exact engineStep_of_add hph

/-- `s` runs through the listed events `evs` to `t`, whatever is listed after them. -/
def State.RunsTo (s : State) (evs : List Event) (t : State) : Prop :=
  ∀ rest, Host.Core.run Sys2Proof.core evs.length (s.withEvents (evs ++ rest)) = .next (t.withEvents rest)

theorem run_succ {M : Host.Core} {s t : M.State} (n : Nat) (h : M.step s = .next t) :
    M.run (n + 1) s = M.run n t := by
  rw [Host.Core.run, h]

/-- Runs of a machine compose. -/
theorem run_add {M : Host.Core} {s t : M.State} {m : Nat} (n : Nat) (h : M.run m s = .next t) :
    M.run (m + n) s = M.run n t := by
  induction m generalizing s with
  | zero =>
    cases h
    rw [Nat.zero_add]
  | succ m ih =>
    rw [Nat.succ_add, Host.Core.run]
    rw [Host.Core.run] at h
    split at h
    · exact ih h
    · cases h
    · cases h

theorem State.RunsTo.append {evs evs' : List Event} (h : s.RunsTo evs t) (h' : t.RunsTo evs' u) :
    s.RunsTo (evs ++ evs') u := by
  intro rest
  rw [List.length_append, List.append_assoc]
  exact (run_add _ (h (evs' ++ rest))).trans (h' rest)

theorem State.RunsTo.nil (s : State) : s.RunsTo [] s := fun _ => rfl

theorem State.RunsTo.of_doEvent {e : Event}
    (h : ∀ rest, doEvent (s.withEvents rest) e = .next (t.withEvents rest)) : s.RunsTo [e] t := by
  intro rest
  have hstep : step (s.withEvents (e :: rest)) = .next (t.withEvents rest) :=
    (step_of_event (s := s.withEvents (e :: rest)) rfl).trans (h rest)
  exact run_succ (M := Sys2Proof.core) 0 hstep

theorem State.RunsTo.engine {n : Nat} (h : engineSteps n s = .next t) :
    s.RunsTo (List.replicate n .engine) t := by
  induction n generalizing s with
  | zero =>
    cases h
    exact .nil _
  | succ n ih =>
    rw [engineSteps] at h
    split at h
    next u hu => exact State.RunsTo.append (evs := [.engine]) (.of_doEvent (engineStep_withEvents hu)) (ih h)
    all_goals cases h

theorem State.RunsTo.command {i : Instr} (hidle : s.phase = .idle)
    (h : ∀ rest, exec i (s.withEvents rest) = .next (t.withEvents rest)) :
    s.RunsTo ((scriptCmd i).map .access) t := by
  refine .of_doEvent fun rest => ?_
  have hbusy : (s.withEvents rest).busy = false := State.busy_eq_false_iff.2 hidle
  have hdecode : decode (encode i) = .ok i := (decodeIffEncode (encode i) i).2 rfl
  rw [doEvent, hostAccess_command, hbusy, commandWrite, hdecode]
  exact h rest

theorem State.RunsTo.commandThenEngine {i : Instr} {n : Nat} (hidle : s.phase = .idle)
    (h : ∀ rest, exec i (s.withEvents rest) = .next (t.withEvents rest)) (hrun : engineSteps n t = .next u) :
    s.RunsTo (scriptThenEngine (scriptCmd i) n) u :=
  (State.RunsTo.command hidle h).append (.engine hrun)

theorem setHighHalf_setLowHalf (d v : Dword) :
    setHighHalf (setLowHalf d (lowHalf v)) (highHalf v) = v := by
  apply BitVec.eq_of_toNat_eq
  rw [setHighHalf_toNat, setLowHalf_toNat, lowHalf_toNat, highHalf_toNat]
  omega

/-- A register write in IDLE, at an offset that passes the shape checks. -/
theorem State.RunsTo.wr32 (hidle : s.phase = .idle) {off : Nat} {v : Word} (hshape : badRegShape off 4 = false)
    (h : ∀ rest, writeOffset (s.withEvents rest) off v = .next (t.withEvents rest)) :
    s.RunsTo [.access (Access.wr32 off v)] t := by
  refine .of_doEvent fun rest => ?_
  have hbusy : (s.withEvents rest).busy = false := State.busy_eq_false_iff.2 hidle
  change regWrite _ off 4 (BitVec.ofNat 32 v.toNat) = _
  rw [BitVec.ofNat_toNat, BitVec.setWidth_eq, regWrite, hshape, hbusy]
  exact h rest

/-- The two writes of `WR64 BLK` (R111). -/
theorem State.RunsTo.wrBlk (hidle : s.phase = .idle) (v : Dword) :
    s.RunsTo ((scriptWrBlk v).map .access) { s with blk := v, resp := some .okay } := by
  have hlow : s.RunsTo [.access (Access.wr32 Reg.blkLo.offset (lowHalf v))]
      { s with blk := setLowHalf s.blk (lowHalf v), resp := some .okay } := .wr32 hidle rfl fun _ => rfl
  have hhigh (u : State) (hu : u.phase = .idle) : u.RunsTo [.access (Access.wr32 Reg.blkHi.offset (highHalf v))]
      { u with blk := setHighHalf u.blk (highHalf v), resp := some .okay } := .wr32 hu rfl fun _ => rfl
  have hboth := hlow.append (hhigh _ hidle)
  rw [setHighHalf_setLowHalf] at hboth
  exact hboth

/-! ### The long way (R203) -/

/-- The state after an accepted `INIT` (R224). -/
def State.afterInit (s : State) : State := { s with valid := false, h := Config.iv, resp := some .okay }

theorem exec_init_of_ready (hidle : s.phase = .idle) (herr : s.err = .none) :
    exec .init s = .next s.afterInit := by
  have hready : s.ready = true := State.ready_iff.2 ⟨hidle, herr⟩
  rw [exec, execInit, hready]
  rfl

/-- The state after a `PAD` that passes its length checks (R226). -/
def State.afterPad (s : State) (q : Dword) : State :=
  { s with
    msg := s.paddedMsg, padlen := BitVec.ofNat 64 (padLength s.len.toNat), valid := false, opk := .pad, p := q,
    resp := some .okay }

theorem State.runsTo_pad (hcfg : s.cfg.wf) (hidle : s.phase = .idle) (herr : s.err = .none) (hok : s.LengthOk) :
    ∃ q, s.RunsTo (scriptThenEngine (scriptCmd .pad) (padLength s.len.toNat - s.len.toNat)) (s.afterPad q) := by
  obtain ⟨q, hrun⟩ := State.engineSteps_startPad (s := s.clearResult) hcfg hok.2 (k := .pad) nofun
  refine ⟨q, .commandThenEngine (t := (s.clearResult.startPad .pad).respond .okay) hidle
    (fun rest => exec_pad_of_lengthOk (s := s.withEvents rest) hidle herr hok) (hrun.trans ?_)⟩
  rw [State.afterPad, hidle]
  rfl

/-- One `BLOCK` after another, as long as the blocks lie in the padded message: each takes in the next one. -/
theorem State.runsTo_blocks (hidle : s.phase = .idle) (herr : s.err = .none) (hkrom : s.cfg.kromOk = true)
    (hvalid : s.valid = false) (hblk : s.blk = 0) (hresp : s.resp = some .okay)
    (hfits : s.padlen.toNat ≤ s.cfg.msgCap) {n : Nat} (hn : 64 * n ≤ s.padlen.toNat) :
    ∃ (v : Vars) (w : Words64) (k : Opk) (i : Fin 64),
      s.RunsTo (List.replicate n (scriptThenEngine (scriptCmd .block) blockSteps)).flatten
        { s.afterBlocks n v w with opk := k, t := i } := by
  induction n with
  | zero =>
    have hzero : BitVec.ofNat 64 0 = s.blk := hblk.symm
    refine ⟨s.vars, s.w, s.opk, s.t, ?_⟩
    rw [State.afterBlocks, hzero]
    exact .nil s
  | succ n ih =>
    obtain ⟨v, w, k, i, hrun⟩ := ih (by omega)
    have hblkn := State.toNat_blk_of_le (s := s) (n := n) (by omega)
    have hblock : 64 * (BitVec.ofNat 64 n).toNat + 64 ≤ s.cfg.msgCap := by omega
    have hloaded : State.loadedBlock { s.afterBlocks n v w with opk := k, t := i } =
        blockOf (s.loadedBytes s.padlen.toNat) n := State.loadedBlock_eq_blockOf rfl hblkn rfl (by omega)
    obtain ⟨v', w', hstep⟩ := State.engineSteps_startBlock (s := { s.afterBlocks n v w with opk := k, t := i })
      hidle hkrom hblock
    refine ⟨v', w', .block, Fin.last 63, ?_⟩
    rw [List.replicate_succ', List.flatten_concat]
    have hlast := hrun.append (.commandThenEngine hidle (fun rest =>
      exec_block_of_fits (s := State.withEvents { s.afterBlocks n v w with opk := k, t := i } rest)
        hidle herr hkrom hblock) hstep)
    rw [State.afterBlock, hloaded] at hlast
    simp only [State.afterBlocks, ofNat_add_one] at hlast
    rw [← hvalid, ← hresp] at hlast
    exact hlast

theorem State.runsTo_shortWay (hcfg : s.cfg.wf) (hidle : s.phase = .idle) (herr : s.err = .none)
    (hkrom : s.cfg.kromOk = true) (hok : s.LengthOk) :
    ∃ (v : Vars) (w : Words64) (q : Dword), s.RunsTo (shortWay s.len.toNat) (s.afterDigest v w q) := by
  obtain ⟨v, w, q, hrun⟩ := State.engineSteps_startDigest hcfg hidle hkrom hok.2
  exact ⟨v, w, q, .commandThenEngine (t := s.startDigest) hidle
    (fun rest => exec_digest_of_lengthOk (s := s.withEvents rest) hidle herr hkrom hok) hrun⟩

/-- The state after `INIT`, `PAD` and `BLK <- 0`: what a `DIGEST` has when its first block starts, but IDLE. -/
def State.paddedByHand (s : State) (q : Dword) : State :=
  { s.afterInit.afterPad q with blk := 0, resp := some .okay }

theorem State.runsTo_paddedByHand (hcfg : s.cfg.wf) (hidle : s.phase = .idle) (herr : s.err = .none)
    (hok : s.LengthOk) :
    ∃ q, s.RunsTo
      (scriptThenEngine (scriptCmd .init ++ scriptCmd .pad) (padLength s.len.toNat - s.len.toNat) ++
        (scriptWrBlk 0).map .access) (s.paddedByHand q) := by
  have hinit : s.RunsTo ((scriptCmd .init).map .access) s.afterInit :=
    .command hidle fun rest => exec_init_of_ready (s := s.withEvents rest) hidle herr
  obtain ⟨q, hpad⟩ := State.runsTo_pad (s := s.afterInit) hcfg hidle herr hok
  have hblk := State.RunsTo.wrBlk (s := s.afterInit.afterPad q) hidle 0
  exact ⟨q, (hinit.append hpad).append hblk⟩

/-- The long way ends as one `DIGEST` does, but for `VALID` and the values that U2 leaves open. -/
theorem State.runsTo_longWay (hcfg : s.cfg.wf) (hidle : s.phase = .idle) (herr : s.err = .none)
    (hkrom : s.cfg.kromOk = true) (hok : s.LengthOk) :
    ∃ (v : Vars) (w : Words64) (q : Dword) (k : Opk) (i : Fin 64),
      s.RunsTo (longWay s.len.toNat) { s.afterDigest v w q with valid := false, opk := k, t := i } := by
  obtain ⟨q, hstart⟩ := State.runsTo_paddedByHand hcfg hidle herr hok
  have hpadlen : (s.paddedByHand q).padlen.toNat = padLength s.len.toNat := toNat_ofNat_padLength hcfg hok.2
  have hbytes : (s.paddedByHand q).loadedBytes (padLength s.len.toNat) = padMessage (s.loadedBytes s.len.toNat) :=
    State.loadedBytes_padded s.paddedTo_paddedMsg rfl
  obtain ⟨v, w, k, i, hblocks⟩ := State.runsTo_blocks (s := s.paddedByHand q) hidle herr hkrom rfl rfl rfl
    (hpadlen.trans_le hok.2) (n := padLength s.len.toNat / 64) (by rw [hpadlen]; exact Nat.mul_div_le _ 64)
  refine ⟨v, w, q, k, i, ?_⟩
  rw [State.afterBlocks, hpadlen, hbytes] at hblocks
  rw [State.afterDigest, ← hashFirst_padMessage (s.length_loadedBytes s.len.toNat)]
  exact hstart.append hblocks

theorem State.RunsTo.run_eq {evs : List Event} (h : s.RunsTo evs t) :
    Host.Core.run Sys2Proof.core evs.length { s with events := evs } = .next { t with events := [] } := by
  have hrun := h []
  rw [List.append_nil] at hrun
  exact hrun

/-! ### The obligations -/

/-- Settles O52: the words have eight digits each, and the digits of a word are its nibbles. -/
theorem hexFormDigitByDigit : Obligations.HexFormDigitByDigit := by
  refine ⟨fun S => ⟨?_, fun i j hj => ?_⟩, by decide⟩
  · rw [toHex, String.toList_ofList, length_flatMap_hexWord]
  · rw [toHex, String.toList_ofList, getElem?_flatMap_of_length length_hexWord _ _ hj]
    have hword : S.toList[i.val]? = some S[i] := by simp
    rw [hword, Option.bind_some, getElem?_hexWord _ hj]

/-- Settles O34: an access and a reset always complete, and under the invariant the engine's step does. -/
theorem noStepStopsUnderTheInvariant : Obligations.NoStepStopsUnderTheInvariant := by
  intro s hs
  cases hev : s.events with
  | nil =>
    rw [step_of_no_events hev]
    exact hs.engineStep_completes
  | cons e rest =>
    rw [step_of_event hev]
    cases e with
    | access a => exact hostAccess_completes _ a
    | engine => exact (hs.withOwnFields rest s.resp s.freeCount).engineStep_completes
    | reset => exact ⟨_, rfl⟩

/-- Settles O60: every engine step is one of the steps left, IDLE is where none is left, and acceptance sets the count. -/
theorem everyCommandEnds : Obligations.EveryCommandEnds := by
  refine ⟨fun s hs => ⟨?_, fun n hn => ?_⟩, fun s t i hs hidle h => ?_⟩
  · obtain ⟨t, ht, hinv, hleft⟩ := hs.engineSteps_stepsLeft le_rfl
    exact ⟨t, ht, hinv.phase_eq_idle_iff.2 (by omega)⟩
  · obtain ⟨t, ht, hinv, hleft⟩ := hs.engineSteps_stepsLeft hn.le
    exact ⟨t, ht, fun hidle => by have := hinv.phase_eq_idle_iff.1 hidle; omega⟩
  · split
    case isTrue hdone => exact State.stepsLeft_of_idle hdone
    case isFalse hbusy =>
      rcases exec_stepsLeft hs hidle h hbusy with ⟨rfl, hleft⟩ | ⟨rfl, hleft⟩ | ⟨rfl, hleft⟩ <;> exact hleft

/-- Settles O55: acceptance starts the one block, and its 130 steps end the command. -/
theorem blockCommandCompressesOneBlock : Obligations.BlockCommandCompressesOneBlock := by
  intro s _ hidle herr hkrom hblock
  obtain ⟨v, w, hrun⟩ := State.engineSteps_startBlock hidle hkrom hblock
  have hblk : BitVec.ofNat 64 (s.blk.toNat + 1) = s.blk + 1 := by simp [BitVec.ofNat_add]
  refine ⟨s.startBlock, s.loadedBlock, v, w, .block, Fin.last 63, s.freeCount + 16,
    exec_block_of_fits hidle herr hkrom hblock, s.blockIs_loadedBlock, hrun.trans ?_⟩
  rw [State.afterBlock, hblk, hidle]

/-- Settles O57: acceptance starts the padding, and the run of its steps and of all blocks ends with the digest. -/
theorem digestCommandComputesTheDigest : Obligations.DigestCommandComputesTheDigest := by
  intro s hcfg hidle herr hkrom hok
  obtain ⟨v, w, q, hrun⟩ := State.engineSteps_startDigest hcfg hidle hkrom hok.2
  exact ⟨s.startDigest, s.loadedBytes s.len.toNat, s.paddedMsg, v, w, .digest, Fin.last 63, q, _,
    exec_digest_of_lengthOk hidle herr hkrom hok, s.messageIs_loadedBytes, s.paddedTo_paddedMsg,
    hrun.trans (by rw [State.afterDigest, hidle])⟩

/-- Settles O58: the two digests are of one message. -/
theorem digestDependsOnlyOnTheMessage : Obligations.DigestDependsOnlyOnTheMessage := by
  intro s u hcfg hwf hkrom hsidle hserr hsok hwritten huidle huerr huok hlen hread
  obtain ⟨v, w, q, hsrun⟩ := State.engineSteps_startDigest hwf hsidle hkrom hsok.2
  obtain ⟨v', w', q', hurun⟩ := State.engineSteps_startDigest (hcfg ▸ hwf) huidle (hcfg ▸ hkrom) huok.2
  have hmessage : s.loadedBytes s.len.toNat = u.loadedBytes u.len.toNat :=
    s.messageIs_loadedBytes.unique u.messageIs_loadedBytes hlen hwritten hread
  exact ⟨s.startDigest, u.startDigest, s.afterDigest v w q, u.afterDigest v' w' q',
    exec_digest_of_lengthOk hsidle hserr hkrom hsok, exec_digest_of_lengthOk huidle huerr (hcfg ▸ hkrom) huok,
    hsrun, hlen ▸ hurun, congrArg digest hmessage⟩

/-- Settles O59: both scripts load the bytes of one padded message into the same compressions. -/
theorem longWayEqualsDigest : Obligations.LongWayEqualsDigest := by
  intro s hcfg hkrom hidle herr hok _
  obtain ⟨v, w, q, k, i, hlong⟩ := State.runsTo_longWay hcfg hidle herr hkrom hok
  obtain ⟨v', w', q', hshort⟩ := State.runsTo_shortWay hcfg hidle herr hkrom hok
  exact ⟨_, _, hlong.run_eq, hshort.run_eq, rfl, rfl, rfl, rfl, rfl, rfl, rfl, rfl, rfl, rfl, hidle, hidle⟩

end Sys2Proof.Machine
end

section
/-! Family 45_host_commands: the register read and write as tables (R216, R217), the message memory port (R219), the busy
lock-out (R218), the rejection (R220), and the six commands at acceptance (R222 to R228). -/

namespace Sys2Proof.Machine

variable {s t : State}

/-! ### The command procedure (R223) -/

/-- R223, R258: only `NOP` and `CLEAR` pass a latched error, and nothing passes a busy block. -/
theorem exec_eq_reject {i : Instr} (h : (s.err ≠ .none ∧ i ≠ .nop ∧ i ≠ .clear) ∨ s.phase ≠ .idle) :
    exec i s = .next s.reject := by
  obtain ⟨t, ht⟩ := exec_completes i s
  rcases exec_cases ht with rfl | ⟨hidle, haccepted⟩
  · exact ht
  · obtain ⟨herr, hnop, hclear⟩ := h.resolve_right (not_not_intro hidle)
    rcases haccepted with ⟨hi, -⟩ | ⟨hi, -⟩ | ⟨hnone, -⟩
    · exact absurd hi hnop
    · exact absurd hi hclear
    · exact absurd hnone herr

/-- A command that answers ERROR was rejected: an accepted one answers OKAY, also when it raises an error. -/
theorem eq_reject_of_exec_error {i : Instr} (h : exec i s = .next t) (hresp : t.resp = some .error) :
    t = s.reject := by
  rcases exec_cases h with hrej | ⟨-, ⟨-, rfl⟩ | ⟨-, rfl⟩ | ⟨-, ⟨-, rfl⟩ | ⟨-, rfl⟩ | ⟨-, -, rfl⟩ | ⟨-, rfl⟩⟩⟩
  · exact hrej
  all_goals cases hresp

theorem exec_pad_of_ready (hidle : s.phase = .idle) (herr : s.err = .none) :
    exec .pad s = .next (s.padCommand.respond .okay) := by
  rw [exec, execPad, State.ready_iff.2 ⟨hidle, herr⟩, State.command_true]

theorem exec_digest_of_ready (hidle : s.phase = .idle) (herr : s.err = .none) :
    exec .digest s = .next (s.digestCommand.respond .okay) := by
  rw [exec, execDigest, State.ready_iff.2 ⟨hidle, herr⟩, State.command_true]

/-- Of the commands only `BLOCK` can still be rejected in a ready state: its block must lie inside `MSG` (R53). -/
theorem exec_block_of_ready (hidle : s.phase = .idle) (herr : s.err = .none) :
    exec .block s = s.command s.blockInMsg State.blockCommand := by
  rw [exec, execBlock, State.ready_iff.2 ⟨hidle, herr⟩, Bool.true_and]

theorem State.blockInMsg_iff : s.blockInMsg = true ↔ 64 * s.blk.toNat + 64 ≤ s.cfg.msgCap :=
  decide_eq_true_iff

/-- The write of a command's word to `CMD` is the command, also while busy, where the port and the command both reject. -/
theorem hostAccess_command_of_decode {w : Word} {i : Instr} (hw : decode w = .ok i) :
    hostAccess s (Access.command w) = exec i s := by
  have hrun : commandWrite s w = exec i s := by rw [commandWrite, hw]
  rw [hostAccess_command, hrun]
  split
  case isTrue hbusy => exact (exec_eq_reject (.inr (State.busy_iff.1 hbusy))).symm
  case isFalse => rfl

theorem decode_of_decodeTableWord {w : Nat} {i : Instr} (h : decodeTableWord 32 w = some i) :
    decode (BitVec.ofNat 32 (w % 2 ^ 32)) = .ok i := by
  rw [decodeTableWord, if_pos (Nat.mod_lt w (by decide))] at h
  cases hw : decode (BitVec.ofNat 32 (w % 2 ^ 32)) with
  | ok j => rw [hw] at h; exact congrArg _ (Option.some.inj h)
  | error e => rw [hw] at h; cases h

/-! ### The message memory port (R219) -/

theorem State.badMsgShape_eq_false {a : Nat} (ha : a < s.cfg.msgCap) : s.badMsgShape a 1 = false := by
  simp [State.badMsgShape, ha]

theorem msgRead_of_idle {a : Nat} (ha : a < s.cfg.msgCap) (hidle : s.phase = .idle) :
    msgRead s a 1 = (s.respond (.okayByte (s.msgByte a))).countRead := by
  rw [msgRead, State.badMsgShape_eq_false ha, State.busy_eq_false_iff.2 hidle]
  rfl

theorem msgWrite_of_idle {a : Nat} (ha : a < s.cfg.msgCap) (hidle : s.phase = .idle) (v : Byte) :
    msgWrite s a 1 v = (s.writeMsg a v).respond .okay := by
  rw [msgWrite, State.badMsgShape_eq_false ha, State.busy_eq_false_iff.2 hidle]
  rfl

/-- R219's rejection, the same for both directions. -/
theorem hostAccess_msg_eq_reject {dir : Dir} {a size data : Nat}
    (h : size ≠ 1 ∨ s.cfg.msgCap ≤ a ∨ s.phase ≠ .idle) :
    hostAccess s ⟨.msg, dir, a, size, data⟩ = .next s.reject := by
  have hnot : ¬ (size = 1 ∧ a < s.cfg.msgCap ∧ s.phase = .idle) := by
    rintro ⟨hsize, ha, hidle⟩
    rcases h with h | h | h
    · exact h hsize
    · exact absurd ha (Nat.not_lt.2 h)
    · exact h hidle
  cases dir with
  | read =>
    rcases msgRead_cases s a size with hrej | ⟨hsize, ha, hidle, -⟩
    · exact congrArg _ hrej
    · exact absurd ⟨hsize, ha, hidle⟩ hnot
  | write =>
    rcases msgWrite_cases s a size (BitVec.ofNat 8 data) with hrej | ⟨hsize, ha, hidle, -⟩
    · exact congrArg _ hrej
    · exact absurd ⟨hsize, ha, hidle⟩ hnot

/-! ### The values of the registers as numbers (R216, R217) -/

theorem lowHalf_ofNat (n : Nat) : lowHalf (BitVec.ofNat 64 n) = BitVec.ofNat 32 n := by
  apply BitVec.eq_of_toNat_eq
  rw [lowHalf_toNat, BitVec.toNat_ofNat, BitVec.toNat_ofNat]
  omega

theorem highHalf_ofNat (n : Nat) : highHalf (BitVec.ofNat 64 n) = BitVec.ofNat 32 (n / 2 ^ 32) := by
  apply BitVec.eq_of_toNat_eq
  rw [highHalf_toNat, BitVec.toNat_ofNat, BitVec.toNat_ofNat]
  omega

theorem lowHalf_eq_ofNat (d : Dword) : lowHalf d = BitVec.ofNat 32 d.toNat := by
  rw [← lowHalf_ofNat, BitVec.ofNat_toNat, BitVec.setWidth_eq]

theorem highHalf_eq_ofNat (d : Dword) : highHalf d = BitVec.ofNat 32 (d.toNat / 2 ^ 32) := by
  rw [← highHalf_ofNat, BitVec.ofNat_toNat, BitVec.setWidth_eq]

theorem setLowHalf_eq_ofNat (d : Dword) (v : Word) :
    setLowHalf d v = BitVec.ofNat 64 (d.toNat / 2 ^ 32 * 2 ^ 32 + v.toNat) := by
  rw [← setLowHalf_toNat, BitVec.ofNat_toNat, BitVec.setWidth_eq]

theorem setHighHalf_eq_ofNat (d : Dword) (v : Word) :
    setHighHalf d v = BitVec.ofNat 64 (v.toNat * 2 ^ 32 + d.toNat % 2 ^ 32) := by
  rw [← setHighHalf_toNat, BitVec.ofNat_toNat, BitVec.setWidth_eq]

theorem State.statusWord_eq_ofNat (s : State) :
    s.statusWord = BitVec.ofNat 32
      ((if s.phase = .idle then 0 else 1) + 2 * s.valid.toNat + 16 * s.err.code.toNat) := by
  rw [← State.statusWord_toNat, BitVec.ofNat_toNat, BitVec.setWidth_eq]

theorem setWidth_ofBool (b : Bool) : (BitVec.ofBool b).setWidth 32 = if b then 1 else 0 := by
  cases b <;> rfl

/-! ### Register accesses (R216, R217) -/

theorem badRegShape_iff {off size : Nat} :
    badRegShape off size = true ↔ size ≠ 4 ∨ off % 4 ≠ 0 ∨ 0x1FC < off := by
  simp only [badRegShape, Bool.or_eq_true, bne_iff_ne, decide_eq_true_eq, or_assoc]

/-- The answer to a register read that has a value, or none. -/
def readResponse : Option Word → Response
  | some v => .okayWord v
  | none => .error

/-- A register read that passes R261's checks answers with the register's value, of `STATUS` also while busy. -/
theorem regRead_eq (s : State) (off size : Nat) :
    regRead s off size = s.respond (readResponse
      (if size ≠ 4 ∨ off % 4 ≠ 0 ∨ 0x1FC < off then none
      else if s.phase ≠ .idle ∧ off ≠ 0x008 then none
      else s.readOffset off)) := by
  simp only [regRead, Bool.or_eq_true, badRegShape_iff, Bool.and_eq_true, State.busy_iff, bne_iff_ne]
  by_cases hshape : size ≠ 4 ∨ off % 4 ≠ 0 ∨ 0x1FC < off
  · rw [if_pos (.inl hshape), if_pos hshape]
    rfl
  · by_cases hlocked : s.phase ≠ .idle ∧ off ≠ 0x008
    · rw [if_pos (.inr hlocked), if_neg hshape, if_pos hlocked]
      rfl
    · rw [if_neg (not_or.2 ⟨hshape, hlocked⟩), if_neg hshape, if_neg hlocked]
      cases s.readOffset off <;> rfl

theorem State.readOffset_offset (s : State) (r : Reg) : s.readOffset r.offset = s.readReg r := by
  rw [State.readOffset, ofOffset_offset]

/-- R56: the reserved offsets, among the aligned ones in range. -/
theorem reserved_of_ofOffset_eq_none {off : Nat} (h : Reg.ofOffset off = none) (halign : off % 4 = 0)
    (hrange : off ≤ 0x1FC) : off = 0x00C ∨ (0x050 ≤ off ∧ off ≤ 0x0FC) := by
  have hindex : ∀ n < 128, Reg.ofWordIndex n = none → n = 3 ∨ (20 ≤ n ∧ n < 64) := by decide
  rw [Reg.ofOffset, if_pos halign] at h
  have hreserved := hindex (off / 4) (by omega) h
  omega

/-- A register write that passes R261's checks reaches the register at its offset. -/
theorem regWrite_eq (s : State) (off size : Nat) (v : Word) :
    regWrite s off size v =
      if size ≠ 4 ∨ off % 4 ≠ 0 ∨ 0x1FC < off then .next s.reject
      else if s.phase ≠ .idle then .next s.reject
      else writeOffset s off v := by
  simp only [regWrite, Bool.or_eq_true, badRegShape_iff, State.busy_iff, ite_or]

/-- Outside the six offsets that R217 names, a register write is rejected. -/
theorem writeOffset_eq_reject {off : Nat} {v : Word}
    (h : off ∉ [0x000, 0x004, 0x010, 0x014, 0x040, 0x044]) : writeOffset s off v = .next s.reject := by
  unfold writeOffset
  split
  · rfl
  · rename_i hcmd
    exact absurd (by simp [eq_offset_of_ofOffset hcmd, Reg.offset]) h
  · rename_i r _ hr
    cases hu : s.writeReg r v with
    | none => rfl
    | some u =>
      refine absurd ?_ h
      rcases plainWrite_of_writeReg hr hu with ⟨rfl, -⟩ | ⟨rfl, -⟩ | ⟨rfl, -⟩ | ⟨rfl, -⟩ | ⟨rfl, -⟩ <;> simp

/-! ### The busy lock-out (R218) -/

theorem regRead_of_busy (hbusy : s.phase ≠ .idle) (off size : Nat) :
    regRead s off size = s.respond (if off = 0x008 ∧ size = 4 then .okayWord s.statusWord else .error) := by
  rw [regRead_eq]
  by_cases hstatus : off = 0x008 ∧ size = 4
  · obtain ⟨rfl, rfl⟩ := hstatus
    rw [if_neg (by decide), if_neg (fun h => h.2 rfl), if_pos ⟨rfl, rfl⟩]
    rfl
  · rw [if_neg hstatus]
    by_cases hshape : size ≠ 4 ∨ off % 4 ≠ 0 ∨ 0x1FC < off
    · rw [if_pos hshape]
      rfl
    · rw [if_neg hshape, if_pos ⟨hbusy, fun hoff => hstatus ⟨hoff, by omega⟩⟩]
      rfl

/-- The accesses other than a register read need the block in IDLE. -/
theorem hostAccess_of_busy {a : Access} (hbusy : s.phase ≠ .idle) (h : ¬ (a.space = .reg ∧ a.dir = .read)) :
    hostAccess s a = .next s.reject := by
  obtain ⟨t, ht⟩ := hostAccess_completes s a
  rcases hostAccess_cases ht with rfl | ⟨hsp, hdir, -⟩ | ⟨hidle, -⟩
  · exact ht
  · exact absurd ⟨hsp, hdir⟩ h
  · exact absurd hidle hbusy

/-! ### The obligations -/

/-- Settles O11: an offset is a register's, whose value the table names, or one of the reserved ones. -/
theorem registerReadTable : Obligations.RegisterReadTable := by
  intro s off size data
  change Host.Outcome.next (regRead s off size) = _
  rw [regRead_eq]
  refine congrArg (fun v => Host.Outcome.next (s.respond (readResponse v))) ?_
  refine ite_congr rfl (fun _ => rfl) fun hshape => ite_congr rfl (fun _ => rfl) fun _ => ?_
  cases hreg : Reg.ofOffset off with
  | none =>
    have hreserved := reserved_of_ofOffset_eq_none hreg (by omega) (by omega)
    rw [State.readOffset, hreg]
    simp (disch := omega) only [if_neg]
  | some r =>
    obtain rfl := eq_offset_of_ofOffset hreg
    rw [State.readOffset_offset]
    cases r with
    -- The rows of `H` and `KROM` are ranges: the offset is kept as one number, so that `omega` decides the other rows away.
    | hash i =>
      have hi := i.isLt
      generalize hoff : Reg.offset (.hash i) = off
      rw [Reg.offset] at hoff
      simp (disch := omega) only [if_neg, if_pos]
      have hindex : (off - 0x020) / 4 = i := by omega
      rw [hindex, Vector.getElem?_eq_getElem hi]
      exact apply_ite some _ _ _
    | krom t =>
      have ht := t.isLt
      generalize hoff : Reg.offset (.krom t) = off
      rw [Reg.offset] at hoff
      simp (disch := omega) only [if_neg, if_pos]
      have hindex : (off - 0x100) / 4 = t := by omega
      rw [hindex, Vector.getElem?_eq_getElem ht]
      exact ite_congr rfl (fun hkrom => congrArg some (romRead_of_kromOk hkrom t)) fun _ => rfl
    | ctrl => exact congrArg some (setWidth_ofBool s.allowEmpty)
    | cmd => rfl
    | status => exact congrArg some s.statusWord_eq_ofNat
    | lenLo => exact congrArg some (lowHalf_eq_ofNat s.len)
    | lenHi => exact congrArg some (highHalf_eq_ofNat s.len)
    | padlenLo => exact congrArg some (lowHalf_eq_ofNat s.padlen)
    | padlenHi => exact congrArg some (highHalf_eq_ofNat s.padlen)
    | blkLo => exact congrArg some (lowHalf_eq_ofNat s.blk)
    | blkHi => exact congrArg some (highHalf_eq_ofNat s.blk)
    | capLo => exact congrArg some (lowHalf_ofNat s.cfg.msgCap)
    | capHi => exact congrArg some (highHalf_ofNat s.cfg.msgCap)

/-- Settles O12: the table's offsets, one register or half each, and everything else rejected. -/
theorem registerWriteTable : Obligations.RegisterWriteTable := by
  intro s off size v
  have hdata : BitVec.ofNat 32 v.toNat = v := by simp
  change regWrite s off size (BitVec.ofNat 32 v.toNat) = _
  rw [hdata, regWrite_eq]
  refine ite_congr rfl (fun _ => rfl) fun _ => ite_congr rfl (fun _ => rfl) fun _ => ?_
  split_ifs with hctrl hcmd hlenLo hlenHi hblkLo hblkHi
  · subst hctrl
    rw [← Nat.testBit_zero]
    rfl
  · subst hcmd
    rfl
  · subst hlenLo
    rw [← setLowHalf_eq_ofNat]
    rfl
  · subst hlenHi
    rw [← setHighHalf_eq_ofNat]
    rfl
  · subst hblkLo
    rw [← setLowHalf_eq_ofNat]
    rfl
  · subst hblkHi
    rw [← setHighHalf_eq_ofNat]
    rfl
  · exact writeOffset_eq_reject (by simp [hctrl, hcmd, hlenLo, hlenHi, hblkLo, hblkHi])

/-- Settles O13: an access that fails a check is rejected; the read byte is `msgByte`, the memory written is `Memory.write`. -/
theorem messageMemoryAccess : Obligations.MessageMemoryAccess := by
  refine ⟨fun s dir a size data h => hostAccess_msg_eq_reject h, fun s a data ha hidle => ?_,
    fun s a v ha hidle => ?_⟩
  · refine ⟨s.msgByte a, s.freeCount + 1, fun b hb => State.msgByte_of_read hb, ?_⟩
    exact congrArg Host.Outcome.next (msgRead_of_idle ha hidle)
  · have hdata : BitVec.ofNat 8 v.toNat = v := by simp
    refine ⟨s.msg.write a v, ?_, Memory.read_write_same s.msg a v, fun b hb => Memory.read_write_other s.msg v hb⟩
    change Host.Outcome.next (msgWrite s a 1 (BitVec.ofNat 8 v.toNat)) = _
    rw [hdata, msgWrite_of_idle ha hidle]
    rfl

/-- Settles O15: every access that is not rejected answers OKAY, alone or with a value. -/
theorem errorResponseChangesNothing : Obligations.ErrorResponseChangesNothing := by
  intro s t a h hresp
  rcases hostAccess_cases h with rfl | ⟨-, -, v, rfl⟩ |
    ⟨-, ⟨-, -, -, -, rfl⟩ | ⟨-, -, -, -, rfl⟩ | ⟨-, -, -, u, -, rfl⟩ | ⟨-, -, -, -, i, -, hexec⟩⟩
  · rfl
  · cases hresp
  · cases hresp
  · cases hresp
  · cases hresp
  · exact eq_reject_of_exec_error hexec hresp

/-- Settles O14: only the register read does not need IDLE, and of the registers only `STATUS` is read while busy. -/
theorem busyLockOut : Obligations.BusyLockOut := by
  intro s a hbusy
  by_cases hread : a.space = .reg ∧ a.dir = .read
  · obtain ⟨hsp, hdir⟩ := hread
    simp only [hostAccess, hsp, hdir, regRead_of_busy hbusy, true_and]
    rfl
  · rw [hostAccess_of_busy hbusy hread, if_neg fun ⟨hsp, hdir, _⟩ => hread ⟨hsp, hdir⟩]
    rfl

/-- Settles O19: in IDLE the command procedure accepts `NOP`, whose effect is the state itself. -/
theorem nopHasNoEffect : Obligations.NopHasNoEffect := by
  refine ⟨rfl, fun s hidle => ?_⟩
  rw [exec, execNop, State.idle_iff.2 hidle, State.command_true]
  rfl

/-- Settles O20: accepted in a ready state, rejected while an error is latched. -/
theorem initLoadsTheInitialValue : Obligations.InitLoadsTheInitialValue :=
  ⟨rfl, fun _ => exec_init_of_ready, fun _ herr => exec_eq_reject (.inl ⟨herr, by decide, by decide⟩)⟩

/-- Settles O21: in IDLE the command procedure accepts `CLEAR` whatever `ERR` is, and its effect is R259's return. -/
theorem clearEndsTheErrorState : Obligations.ClearEndsTheErrorState := by
  refine ⟨rfl, fun s hidle => ?_⟩
  rw [exec, execClear, State.idle_iff.2 hidle, State.command_true]
  rfl

/-- Settles O22: the three cases of `PAD`'s effect. -/
theorem padAcceptance : Obligations.PadAcceptance := by
  intro s hidle herr
  rw [exec_pad_of_ready hidle herr]
  rcases s.padCommand_cases with ⟨heq, hempty⟩ | ⟨heq, hempty, hlarge⟩ | ⟨heq, hempty, hfits⟩
  · rw [if_pos hempty, heq]
    rfl
  · rw [if_neg hempty, if_pos hlarge, heq]
    rfl
  · rw [if_neg hempty, if_neg (Nat.not_lt.2 hfits), heq]
    rfl

/-- Settles O23: the rejection outside `MSG`, then the two cases of `BLOCK`'s effect. -/
theorem blockAcceptance : Obligations.BlockAcceptance := by
  intro s hidle herr
  rw [exec_block_of_ready hidle herr]
  split
  case isTrue houtside =>
    rw [State.blockInMsg, decide_eq_false (Nat.not_le.2 houtside)]
    rfl
  case isFalse hinside =>
    rw [State.blockInMsg_iff.2 (Nat.not_lt.1 hinside), State.command_true]
    rcases s.blockCommand_cases with ⟨heq, hbroken⟩ | ⟨heq, hkrom⟩
    · rw [if_pos hbroken, heq]
      rfl
    · rw [if_neg (by simp [hkrom]), heq]
      rfl

/-- Settles O24: the four cases of `DIGEST`'s effect, the errors in the order of R260. -/
theorem digestAcceptance : Obligations.DigestAcceptance := by
  intro s hidle herr
  rw [exec_digest_of_ready hidle herr]
  rcases s.digestCommand_cases with ⟨heq, hbroken⟩ | ⟨hkrom, hcases⟩
  · rw [if_pos hbroken, heq]
    rfl
  · rw [if_neg (by simp [hkrom])]
    rcases hcases with ⟨heq, hempty⟩ | ⟨heq, hempty, hlarge⟩ | ⟨heq, hempty, hfits⟩
    · rw [if_pos hempty, heq]
      rfl
    · rw [if_neg hempty, if_pos hlarge, heq]
      rfl
    · rw [if_neg hempty, if_neg (Nat.not_lt.2 hfits), heq]
      rfl

/-- Settles O25: `padlen(L)` is the first multiple of 64 from `L + 9` on, and `MSG_CAP` is a multiple of 64. -/
theorem lengthErrorsExcludeEachOther : Obligations.LengthErrorsExcludeEachOther := by
  rintro c ⟨hmod, hge, -, -⟩
  have hfits (L : Nat) : padLength L ≤ c.msgCap ↔ L + 9 ≤ c.msgCap := by
    obtain ⟨hshape, -, -⟩ := padLength_shape L
    obtain ⟨-, hzeros⟩ := zeroCount_spec L
    have hlen : padLength L = L + 1 + zeroCount L + 8 := rfl
    omega
  exact ⟨(hfits 0).2 (by omega), hfits⟩

/-- Settles O26: no case of an accepted command is left. -/
theorem commandsRejectedWhileErrorOrBusy : Obligations.CommandsRejectedWhileErrorOrBusy :=
  fun _ _ h => exec_eq_reject h

/-- Settles O28: the step takes the listed write, and the write of a command's word is the command. -/
theorem stepRunsTheDecodedCommand : Obligations.StepRunsTheDecodedCommand := by
  have hlisted (s : State) (w : Word) (i : Instr) (rest : List Event)
      (hev : s.events = .access (Access.command w) :: rest) (hw : decode w = .ok i) :
      step s = exec i { s with events := rest } :=
    (step_of_event hev).trans (hostAccess_command_of_decode hw)
  exact ⟨hlisted, fun s w i hw => hlisted (s.withFetchWord 32 w) _ i s.events rfl (decode_of_decodeTableWord hw)⟩

end Sys2Proof.Machine
end

section
/-! Family 60_exceptions: the error entry (R256) and its causes (R250), what changes `ERR` (R258, R259), and the result
gated while an error is set (R257). -/

namespace Sys2Proof.Machine

variable {s t : State}

/-! ### The error entry of a command (R250, R256) -/

/-- R250 to R253: the command `i`, accepted in `s`, can raise `e`, and `e` has its cause. -/
def State.CanRaise (s : State) (i : Instr) (e : Err) : Prop :=
  (e = .const ∧ (i = .block ∨ i = .digest) ∧ s.cfg.kromOk = false) ∨
  (e = .alloc ∧ (i = .pad ∨ i = .digest) ∧ s.cfg.msgCap < padLength s.len.toNat) ∨
  (e = .empty ∧ (i = .pad ∨ i = .digest) ∧ s.len = 0 ∧ s.allowEmpty = false)

/-- R256: the state that the command `i` leaves when it raises `e`. -/
def State.errorEntry (s : State) (i : Instr) (e : Err) : State :=
  { s with err := e, valid := false, resp := some .okay, padlen := if i = .block then s.padlen else 0 }

theorem State.CanRaise.command {i : Instr} {e : Err} (h : s.CanRaise i e) :
    i = .pad ∨ i = .block ∨ i = .digest := by
  rcases h with ⟨-, hi, -⟩ | ⟨-, hi, -⟩ | ⟨-, hi, -⟩
  · exact .inr hi
  · exact hi.imp_right .inr
  · exact hi.imp_right .inr

theorem State.padCommand_err (s : State) :
    s.padCommand.err = s.err ∨ ∃ e, s.CanRaise .pad e ∧ s.padCommand.respond .okay = s.errorEntry .pad e := by
  rcases s.padCommand_cases with ⟨heq, hempty⟩ | ⟨heq, -, hlarge⟩ | ⟨heq, -⟩ <;> rw [heq]
  · exact .inr ⟨.empty, .inr (.inr ⟨rfl, .inl rfl, hempty⟩), rfl⟩
  · exact .inr ⟨.alloc, .inr (.inl ⟨rfl, .inl rfl, hlarge⟩), rfl⟩
  · exact .inl rfl

theorem State.blockCommand_err (s : State) :
    s.blockCommand.err = s.err ∨ ∃ e, s.CanRaise .block e ∧ s.blockCommand.respond .okay = s.errorEntry .block e := by
  rcases s.blockCommand_cases with ⟨heq, hbroken⟩ | ⟨heq, -⟩ <;> rw [heq]
  · exact .inr ⟨.const, .inl ⟨rfl, .inl rfl, hbroken⟩, rfl⟩
  · exact .inl rfl

theorem State.digestCommand_err (s : State) :
    s.digestCommand.err = s.err ∨
      ∃ e, s.CanRaise .digest e ∧ s.digestCommand.respond .okay = s.errorEntry .digest e := by
  rcases s.digestCommand_cases with ⟨heq, hbroken⟩ | ⟨-, ⟨heq, hempty⟩ | ⟨heq, -, hlarge⟩ | ⟨heq, -⟩⟩ <;> rw [heq]
  · exact .inr ⟨.const, .inl ⟨rfl, .inr rfl, hbroken⟩, rfl⟩
  · exact .inr ⟨.empty, .inr (.inr ⟨rfl, .inr rfl, hempty⟩), rfl⟩
  · exact .inr ⟨.alloc, .inr (.inl ⟨rfl, .inr rfl, hlarge⟩), rfl⟩
  · exact .inl rfl

/-- A command leaves `ERR`, clears it, or, accepted with `ERR` = 0, enters an error that has its cause. -/
theorem exec_err {i : Instr} (h : exec i s = .next t) :
    t.err = s.err ∨ (i = .clear ∧ t.err = .none) ∨
    (s.phase = .idle ∧ s.err = .none ∧ ∃ e, s.CanRaise i e ∧ t = s.errorEntry i e) := by
  rcases exec_cases h with rfl | ⟨hidle, ⟨-, rfl⟩ | ⟨hi, rfl⟩ | ⟨herr, h⟩⟩
  · exact .inl rfl
  · exact .inl rfl
  · exact .inr (.inl ⟨hi, rfl⟩)
  · rcases h with ⟨-, rfl⟩ | ⟨rfl, rfl⟩ | ⟨rfl, -, rfl⟩ | ⟨rfl, rfl⟩
    · exact .inl rfl
    · exact s.padCommand_err.imp_right fun hraise => .inr ⟨hidle, herr, hraise⟩
    · exact s.blockCommand_err.imp_right fun hraise => .inr ⟨hidle, herr, hraise⟩
    · exact s.digestCommand_err.imp_right fun hraise => .inr ⟨hidle, herr, hraise⟩

/-! ### What changes `ERR` (R258, R259) -/

/-- R198: "no engine step raises an error", and none clears one. -/
theorem engineStep_err (h : engineStep s = .next t) : t.err = s.err := by
  rcases engineStep_cases_by_kind h with ⟨-, rfl⟩ | ⟨-, h⟩ | ⟨-, -, heq⟩ | ⟨-, h⟩
  · rfl
  · obtain ⟨-, -, -, -, ⟨-, rfl⟩ | ⟨-, rfl⟩⟩ := padByteStep_cases h
    · rfl
    · exact State.padDone_err _
  · rw [heq]
  · rcases addStep_cases h with ⟨-, -, rfl⟩ | ⟨-, rfl⟩ <;> rfl

/-- Only a reset and an accepted command reach `ERR`. -/
theorem step_err (h : step s = .next t) :
    t.err = s.err ∨
    (∃ rest, s.events = .reset :: rest ∧ t.err = if s.cfg.kromOk then .none else .const) ∨
    (∃ i w rest, s.events = .access ⟨.reg, .write, 0x004, 4, w⟩ :: rest ∧ decode (BitVec.ofNat 32 w) = .ok i ∧
      ((i = .clear ∧ t.err = .none) ∨ (s.phase = .idle ∧ s.err = .none ∧ s.CanRaise i t.err))) := by
  rcases step_cases_by_kind h with ⟨evs, -, h⟩ | ⟨a, rest, hev, h⟩ | ⟨rest, hev, rfl⟩
  · have hkept := engineStep_err h
    exact .inl hkept
  · rcases hostAccess_command_or_frame h with ⟨-, ha, i, hdec, h⟩ | ⟨heq, -⟩
    · have hwrite : s.events = .access ⟨.reg, .write, 0x004, 4, a.data⟩ :: rest := by rw [hev, ← ha]
      rcases exec_err h with hkept | hclear | ⟨hidle, herr, e, hraise, rfl⟩
      · exact .inl hkept
      · exact .inr (.inr ⟨i, a.data, rest, hwrite, hdec, .inl hclear⟩)
      · exact .inr (.inr ⟨i, a.data, rest, hwrite, hdec, .inr ⟨hidle, herr, hraise⟩⟩)
    · exact .inl (by rw [heq])
  · exact .inr (.inl ⟨rest, hev, rfl⟩)

/-! ### The result while an error is set (R52, R257) -/

theorem State.Inv.idle_of_err (hs : s.Inv) (herr : s.err ≠ .none) : s.phase = .idle := by
  by_contra hbusy
  exact herr (hs.busyClean hbusy).2

theorem State.Inv.valid_of_err (hs : s.Inv) (herr : s.err ≠ .none) : s.valid = false := by
  by_contra hvalid
  exact herr (hs.validClean (Bool.eq_true_of_not_eq_false hvalid)).1

/-- In IDLE the read of a hash register passes R261's checks and answers with the gated word. -/
theorem hostAccess_rd32_hash (hidle : s.phase = .idle) (i : Fin 8) :
    hostAccess s (Access.rd32 (Reg.hash i).offset) = .next (s.respond (.okayWord (s.hashGated i))) := by
  have hshape : ¬ ((4 : Nat) ≠ 4 ∨ (Reg.hash i).offset % 4 ≠ 0 ∨ 0x1FC < (Reg.hash i).offset) := by
    rw [Reg.offset]
    omega
  change Host.Outcome.next (regRead s (Reg.hash i).offset 4) = _
  rw [regRead_eq, if_neg hshape, if_neg fun hbusy => hbusy.1 hidle, State.readOffset_offset]
  rfl

/-! ### The obligations -/

/-- Settles O18: the invariant makes the error state an idle one without a result, and there the gate reads as 0. -/
theorem noDigestWhileErrorIsSet : Obligations.NoDigestWhileErrorIsSet := by
  intro s i hs herr
  have hgate : s.hashGated i = 0 := if_neg herr
  refine ⟨hs.valid_of_err herr, (hostAccess_rd32_hash (hs.idle_of_err herr) i).trans ?_⟩
  rw [hgate]
  rfl

/-- Settles O27: a command that takes `ERR` from 0 to another value made the error entry of R256. -/
theorem errorEntryIsPrecise : Obligations.ErrorEntryIsPrecise := by
  intro s t i h0 h h1
  rcases exec_err h with hkept | ⟨-, hnone⟩ | ⟨hidle, -, e, hraise, rfl⟩
  · exact absurd (hkept.trans h0) h1
  · exact absurd hnone h1
  · exact ⟨hraise.command, rfl, hidle⟩

/-- Settles O37: of what reaches `ERR`, a reset sets it in a build without the constants only, and `CLEAR` never. -/
theorem errorsArisePerTheTable : Obligations.ErrorsArisePerTheTable := by
  intro s t h h0 h1
  rcases step_err h with hkept | ⟨rest, hev, hreset⟩ |
    ⟨i, w, rest, hev, hdec, ⟨-, hnone⟩ | ⟨hidle, -, hraise⟩⟩
  · exact absurd (hkept.trans h0) h1
  · cases hkrom : s.cfg.kromOk with
    | true => exact absurd (hreset.trans (if_pos hkrom)) h1
    | false => exact .inl ⟨⟨rest, hev⟩, rfl, hreset.trans (if_neg (by simp [hkrom]))⟩
  · exact absurd hnone h1
  · exact .inr ⟨i, w, rest, hev, hdec, hidle, hraise⟩

/-- Settles O38: of what reaches `ERR`, an error entry needs `ERR` = 0, so a reset and `CLEAR` are left. -/
theorem errorsAreSticky : Obligations.ErrorsAreSticky := by
  intro s t h h0 hne
  rcases step_err h with hkept | ⟨rest, hev, -⟩ |
    ⟨i, w, rest, hev, hdec, ⟨rfl, hnone⟩ | ⟨-, herr, -⟩⟩
  · exact absurd hkept hne
  · exact .inl ⟨rest, hev⟩
  · exact .inr ⟨hnone, w, rest, hev, hdec⟩
  · exact absurd herr h0

end Sys2Proof.Machine
end

section
/-! Family 70_reset_and_hazards: no step reaches the parameters of the instance (R8, R282). -/

namespace Sys2Proof.Machine

variable {s t : State}

/-! ### What leaves the parameters as they are -/

theorem State.padCommand_cfg (s : State) : s.padCommand.cfg = s.cfg := by
  rcases s.padCommand_cases with ⟨heq, -⟩ | ⟨heq, -⟩ | ⟨heq, -⟩ <;> rw [heq]

theorem State.blockCommand_cfg (s : State) : s.blockCommand.cfg = s.cfg := by
  rcases s.blockCommand_cases with ⟨heq, -⟩ | ⟨heq, -⟩ <;> rw [heq]

theorem State.digestCommand_cfg (s : State) : s.digestCommand.cfg = s.cfg := by
  rcases s.digestCommand_cases with ⟨heq, -⟩ | ⟨-, ⟨heq, -⟩ | ⟨heq, -⟩ | ⟨heq, -⟩⟩ <;> rw [heq]

theorem exec_cfg {i : Instr} (h : exec i s = .next t) : t.cfg = s.cfg := by
  rcases exec_cases h with rfl | ⟨-, ⟨-, rfl⟩ | ⟨-, rfl⟩ | ⟨-, h⟩⟩
  · rfl
  · rfl
  · rfl
  · rcases h with ⟨-, rfl⟩ | ⟨-, rfl⟩ | ⟨-, -, rfl⟩ | ⟨-, rfl⟩
    · rfl
    · exact s.padCommand_cfg
    · exact s.blockCommand_cfg
    · exact s.digestCommand_cfg

theorem hostAccess_cfg {a : Access} (h : hostAccess s a = .next t) : t.cfg = s.cfg := by
  rcases hostAccess_command_or_frame h with ⟨-, -, i, -, h⟩ | ⟨heq, -⟩
  · exact exec_cfg h
  · rw [heq]

theorem engineStep_cfg (h : engineStep s = .next t) : t.cfg = s.cfg := by
  rcases engineStep_cases_by_kind h with ⟨-, rfl⟩ | ⟨-, h⟩ | ⟨-, -, heq⟩ | ⟨-, h⟩
  · rfl
  · obtain ⟨-, -, -, -, ⟨-, rfl⟩ | ⟨-, rfl⟩⟩ := padByteStep_cases h
    · rfl
    · exact State.padDone_cfg _
  · rw [heq]
  · rcases addStep_cases h with ⟨-, -, rfl⟩ | ⟨-, rfl⟩ <;> rfl

/-! ### The obligation -/

/-- Settles O31: neither the engine's step nor a host access reaches the parameters, and a reset is the reset of the
instance that it finds. -/
theorem configurationNeverChanges : Obligations.ConfigurationNeverChanges := by
  intro s t h
  rcases step_cases_by_kind h with ⟨evs, -, h⟩ | ⟨a, rest, -, h⟩ | ⟨rest, -, rfl⟩
  · exact (engineStep_cfg h :)
  · exact (hostAccess_cfg h :)
  · exact State.resetEvent_cfg _

end Sys2Proof.Machine
end
